-- ==== Sys2Proof/Word.lean ====
section
/-! DEFINITION. The words of the block: the 32-bit transfer word of R7 and the byte of R61. -/

namespace Sys2Proof

/-- A 32-bit unsigned value (00_scope.md section 8, R7: transfer word width W = 32). -/
abbrev Word := BitVec 32

/-- One byte of memory (R61). -/
abbrev Byte := BitVec 8

end Sys2Proof
end

