-- ==== Sys2Proof/Syntax.lean ====
section
/-! DEFINITION. The syntax layer: agents, channels and registers by name, the operation term of R85, the bus access of
R84, the host program lines of R89, and Instr, one constructor for each row of spec/opcode_table.json. -/

namespace Sys2Proof

/-- A DMA channel: 0 is the data channel, 1 the control channel (R1, R116). -/
inductive Chan where
  | ch0
  | ch1
  deriving DecidableEq, Repr, Inhabited

/-- The agents of the machine (R4). -/
inductive Agent where
  | hgen
  | vgen
  | cgen
  | dma (c : Chan)
  | host
  deriving DecidableEq, Repr, Inhabited

/-- The registers of the window, by name (R37). -/
inductive Reg where
  | seqCtrl
  | seqFlags
  | seqFstat
  | cgenTxf
  | chReadAddr (c : Chan)
  | chWriteAddr (c : Chan)
  | chTransCount (c : Chan)
  | chCtrlTrig (c : Chan)
  | chCtrl (c : Chan)
  | chReadAddrTrig (c : Chan)
  | chTransRemain (c : Chan)
  | chanAbort
  deriving DecidableEq, Repr

/-- The direction of a bus access (R84). -/
inductive Dir where
  | read
  | write
  deriving DecidableEq, Repr

/-- A NAME of a host program (R89). -/
abbrev Name := List Char

/-- An operation term (R85): the operation code and the fields the operation uses. The channel `c` of R85 is bit 3
of the operation code and has no field of its own. The access width of HOST.LDW and HOST.STW (R150, R151) and
the NAME a result is bound to (R89) are operands the terms of those rules carry; a term that names no width is a word
access. (DEDUCED, log entry 13.) R85 does not say what a HOST.LDW or PX.GET term without a NAME binds: it binds the empty NAME, which no
line of text can write. (DESIGN CHOICE, log entry 36.) -/
structure Term where
  op : BitVec 8
  a : Word := 0
  v : Word := 0
  x : Nat := 0
  y : Nat := 0
  col : Nat := 0
  width : Nat := 4
  name : Name := []
  deriving DecidableEq, Repr

/-- A bus access to the register window (R84): the byte offset from BLK_BASE, the direction, and the value a write
carries. -/
structure BusAccess where
  offset : BitVec 9
  dir : Dir
  data : Word := 0
  deriving DecidableEq, Repr

/-- What a decoder is given: an operation term (R85) or a bus access to the register window (R84). -/
inductive Code where
  | term (t : Term)
  | access (b : BusAccess)
  deriving DecidableEq, Repr

/-- ADDR of a host program line (R89). `blkPlus` is `BLK_BASE + o`, which R178 and 95_test_vectors.md write and R89 does not list.
(DESIGN CHOICE, log entry 33.) -/
inductive AddrExpr where
  | num (a : Word)
  | reg (r : Reg)
  | fb (k : Nat)
  | basePtr
  | blkPlus (o : Nat)
  deriving DecidableEq, Repr

/-- VALUE of a host program line (R89): a numeral, a NAME bound earlier, or one of four parameters; and `BLK_BASE + o`, as for ADDR
(log entry 33). -/
inductive ValueExpr where
  | num (v : Word)
  | name (n : Name)
  | paramN
  | paramFbBase
  | paramBaseptrAddr
  | paramBlkBase
  | blkPlus (o : Nat)
  deriving DecidableEq, Repr

/-- One line of a host program. The first seven are the lines of R89; `term` is an operation term written out (R85; the
form in which a reserved code or another width can be written), and `access` is an access presented at the block's
slave port (R6, R84). -/
inductive Line where
  | ldw (a : AddrExpr) (n : Name)
  | stw (a : AddrExpr) (v : ValueExpr)
  | setPixel (x y c : Nat)
  | getPixel (x y : Nat) (n : Name)
  | fillAll (c : Nat)
  | start
  | stop
  | term (t : Term)
  | access (b : BusAccess)
  deriving DecidableEq, Repr

/-- The operations: one constructor for each row of spec/opcode_table.json, in the table's order. -/
inductive Instr where
  /-- HOST.LDW (R150): byte address, access width in bytes, NAME. -/
  | hostLdw (a : Word) (width : Nat) (name : Name)
  /-- HOST.STW (R151): byte address, value, access width in bytes. -/
  | hostStw (a : Word) (v : Word) (width : Nat)
  | hAp
  | hSp
  | hBp
  | vHold
  | vVis
  | vFp
  | vSpl
  | vSph
  | vBp
  | cWait
  | cTake
  | cOut
  | cStall
  | cDwell
  | cBlank
  | dmaXfer (c : Chan)
  | dmaTrigger (c : Chan)
  | dmaAbort (c : Chan)
  /-- PX.XLATE (R136): column, row. -/
  | pxXlate (x y : Nat)
  /-- PX.MASK (R142): colour. -/
  | pxMask (col : Nat)
  /-- PX.SET (R143): column, row, colour. -/
  | pxSet (x y col : Nat)
  /-- PX.GET (R144): column, row, NAME. -/
  | pxGet (x y : Nat) (name : Name)
  /-- PX.FILL (R145): colour. -/
  | pxFill (col : Nat)
  | sysStart
  | sysStop
  | rdSeqCtrl
  | rdSeqFlags
  | rdSeqFstat
  | rdCgenTxf
  | rdChReadAddr (c : Chan)
  | rdChWriteAddr (c : Chan)
  | rdChTransCount (c : Chan)
  | rdChCtrlTrig (c : Chan)
  | rdChCtrl (c : Chan)
  | rdChReadAddrTrig (c : Chan)
  | rdChTransRemain (c : Chan)
  | rdChanAbort
  | wrSeqCtrl (v : Word)
  | wrSeqFlags (v : Word)
  | wrSeqFstat (v : Word)
  | wrCgenTxf (v : Word)
  | wrChReadAddr (c : Chan) (v : Word)
  | wrChWriteAddr (c : Chan) (v : Word)
  | wrChTransCount (c : Chan) (v : Word)
  | wrChCtrlTrig (c : Chan) (v : Word)
  | wrChCtrl (c : Chan) (v : Word)
  | wrChReadAddrTrig (c : Chan) (v : Word)
  | wrChTransRemain (c : Chan) (v : Word)
  | wrChanAbort (v : Word)
  deriving DecidableEq, Repr

end Sys2Proof
end

