-- ==== Sys2Proof/WellFormed.lean ====
section
/-! DEFINITION. Well-formed operations: those no term of which R185 refuses for its operands (REF_WIDTH, REF_COLOR). -/

namespace Sys2Proof

/-- The access width of a host bus operation is the word (R63, R87: another width is refused REF_WIDTH). -/
def widthOk (w : Nat) : Bool := w == 4

/-- A colour operand is a 3-bit code (R82, R87: 8 or more is refused REF_COLOR). -/
def colorOk (c : Nat) : Bool := decide (c < 8)

/-- The operands of an operation are ones R87 does not refuse. -/
def Instr.wellFormed : Instr → Bool
  | .hostLdw _ w _ => widthOk w
  | .hostStw _ _ w => widthOk w
  | .pxMask c => colorOk c
  | .pxSet _ _ c => colorOk c
  | .pxFill c => colorOk c
  | .hAp | .hSp | .hBp => true
  | .vHold | .vVis | .vFp | .vSpl | .vSph | .vBp => true
  | .cWait | .cTake | .cOut | .cStall | .cDwell | .cBlank => true
  | .dmaXfer _ | .dmaTrigger _ | .dmaAbort _ => true
  | .pxXlate _ _ | .pxGet _ _ _ | .sysStart | .sysStop => true
  | .rdSeqCtrl | .rdSeqFlags | .rdSeqFstat | .rdCgenTxf | .rdChReadAddr _ | .rdChWriteAddr _ => true
  | .rdChTransCount _ | .rdChCtrlTrig _ | .rdChCtrl _ | .rdChReadAddrTrig _ | .rdChTransRemain _ => true
  | .rdChanAbort => true
  | .wrSeqCtrl _ | .wrSeqFlags _ | .wrSeqFstat _ | .wrCgenTxf _ | .wrChReadAddr _ _ | .wrChWriteAddr _ _ => true
  | .wrChTransCount _ _ | .wrChCtrlTrig _ _ | .wrChCtrl _ _ | .wrChReadAddrTrig _ _ => true
  | .wrChTransRemain _ _ | .wrChanAbort _ => true

end Sys2Proof
end

