-- ==== Sys2Proof/Decode.lean ====
section
/-! DEFINITION. The decoder, total on every code, rejecting by name, and after it the encoder; both follow the tables of
30_encoding.md: the OP8 map of R85 and the register-offset decode of R84. -/

namespace Sys2Proof

/-- Why a code decodes to no operation: a reserved OP8 code (R85, R87), or an offset not in the table (R84). -/
inductive DecodeError where
  | reservedOpcode (op : BitVec 8)
  | unmappedOffset (o : BitVec 9)
  deriving DecidableEq, Repr

/-- The channel's number (R116). -/
def Chan.toNat : Chan → Nat
  | .ch0 => 0
  | .ch1 => 1

/-- The other channel. -/
def Chan.other : Chan → Chan
  | .ch0 => .ch1
  | .ch1 => .ch0

/-- The channel a single bit selects. -/
def Chan.ofBit (b : Bool) : Chan := if b then .ch1 else .ch0

/-- The channel with a given number, if the block has it (R51: the only channels are 0 and 1). -/
def Chan.ofNat? : Nat → Option Chan
  | 0 => some .ch0
  | 1 => some .ch1
  | _ => none

/-- One row of the OP8 table: match, mask, and the operation its fields give (R85). -/
structure Op8Row where
  pattern : BitVec 8
  mask : BitVec 8
  build : Term → Instr

/-- Rows of units 0 to 3 (R85). -/
def op8RowsHostGen : List Op8Row := [
  ⟨0x00, 0xFF, fun t => .hostLdw t.a t.width t.name⟩,
  ⟨0x01, 0xFF, fun t => .hostStw t.a t.v t.width⟩,
  ⟨0x20, 0xFF, fun _ => .hAp⟩,
  ⟨0x21, 0xFF, fun _ => .hSp⟩,
  ⟨0x22, 0xFF, fun _ => .hBp⟩,
  ⟨0x40, 0xFF, fun _ => .vHold⟩,
  ⟨0x41, 0xFF, fun _ => .vVis⟩,
  ⟨0x42, 0xFF, fun _ => .vFp⟩,
  ⟨0x43, 0xFF, fun _ => .vSpl⟩,
  ⟨0x44, 0xFF, fun _ => .vSph⟩,
  ⟨0x45, 0xFF, fun _ => .vBp⟩,
  ⟨0x60, 0xFF, fun _ => .cWait⟩,
  ⟨0x61, 0xFF, fun _ => .cTake⟩,
  ⟨0x62, 0xFF, fun _ => .cOut⟩,
  ⟨0x63, 0xFF, fun _ => .cStall⟩,
  ⟨0x64, 0xFF, fun _ => .cDwell⟩,
  ⟨0x65, 0xFF, fun _ => .cBlank⟩]

/-- Rows of units 4 to 6 (R85); for unit 4, bit 3 is the channel. -/
def op8RowsDmaPxSys : List Op8Row := [
  ⟨0x80, 0xF7, fun t => .dmaXfer (.ofBit (t.op.getLsbD 3))⟩,
  ⟨0x81, 0xF7, fun t => .dmaTrigger (.ofBit (t.op.getLsbD 3))⟩,
  ⟨0x82, 0xF7, fun t => .dmaAbort (.ofBit (t.op.getLsbD 3))⟩,
  ⟨0xA0, 0xFF, fun t => .pxXlate t.x t.y⟩,
  ⟨0xA1, 0xFF, fun t => .pxMask t.col⟩,
  ⟨0xA2, 0xFF, fun t => .pxSet t.x t.y t.col⟩,
  ⟨0xA3, 0xFF, fun t => .pxGet t.x t.y t.name⟩,
  ⟨0xA4, 0xFF, fun t => .pxFill t.col⟩,
  ⟨0xC0, 0xFF, fun _ => .sysStart⟩,
  ⟨0xC1, 0xFF, fun _ => .sysStop⟩]

/-- The OP8 table (R85). -/
def op8Table : List Op8Row := op8RowsHostGen ++ op8RowsDmaPxSys

/-- Decode an operation term (R85); a reserved code is rejected by name (R87). -/
def decodeTerm (t : Term) : Except DecodeError Instr :=
  match op8Table.find? (fun r => t.op &&& r.mask == r.pattern) with
  | some r => .ok (r.build t)
  | none => .error (.reservedOpcode t.op)

/-- The operations a host program may issue as a term: those of units 0, 5 and 6 (R86, R152). -/
def Instr.hostIssuable : Instr → Bool
  | .hostLdw _ _ _ | .hostStw _ _ _ => true
  | .pxXlate _ _ | .pxMask _ | .pxSet _ _ _ | .pxGet _ _ _ | .pxFill _ | .sysStart | .sysStop => true
  | .hAp | .hSp | .hBp => false
  | .vHold | .vVis | .vFp | .vSpl | .vSph | .vBp => false
  | .cWait | .cTake | .cOut | .cStall | .cDwell | .cBlank => false
  | .dmaXfer _ | .dmaTrigger _ | .dmaAbort _ => false
  | .rdSeqCtrl | .rdSeqFlags | .rdSeqFstat | .rdCgenTxf | .rdChReadAddr _ | .rdChWriteAddr _ => false
  | .rdChTransCount _ | .rdChCtrlTrig _ | .rdChCtrl _ | .rdChReadAddrTrig _ | .rdChTransRemain _ => false
  | .rdChanAbort => false
  | .wrSeqCtrl _ | .wrSeqFlags _ | .wrSeqFstat _ | .wrCgenTxf _ | .wrChReadAddr _ _ | .wrChWriteAddr _ _ => false
  | .wrChTransCount _ _ | .wrChCtrlTrig _ _ | .wrChCtrl _ _ | .wrChReadAddrTrig _ _ => false
  | .wrChTransRemain _ _ | .wrChanAbort _ => false

/-- One row of the register-offset decode table (R84): match, mask, and the register for the channel of offset bit 6. -/
structure RegRow where
  pattern : BitVec 9
  mask : BitVec 9
  build : Chan → Reg

/-- The register-offset decode table (R84). -/
def regTable : List RegRow := [
  ⟨0x000, 0x1FF, fun _ => .seqCtrl⟩,
  ⟨0x004, 0x1FF, fun _ => .seqFlags⟩,
  ⟨0x008, 0x1FF, fun _ => .seqFstat⟩,
  ⟨0x010, 0x1FF, fun _ => .cgenTxf⟩,
  ⟨0x100, 0x1BF, .chReadAddr⟩,
  ⟨0x104, 0x1BF, .chWriteAddr⟩,
  ⟨0x108, 0x1BF, .chTransCount⟩,
  ⟨0x10C, 0x1BF, .chCtrlTrig⟩,
  ⟨0x110, 0x1BF, .chCtrl⟩,
  ⟨0x114, 0x1BF, .chReadAddrTrig⟩,
  ⟨0x118, 0x1BF, .chTransRemain⟩,
  ⟨0x180, 0x1FF, fun _ => .chanAbort⟩]

/-- The register at an offset of the window, if one is mapped there (R37, R84). -/
def regAt (o : BitVec 9) : Option Reg :=
  (regTable.find? (fun r => o &&& r.mask == r.pattern)).map (fun r => r.build (.ofBit (o.getLsbD 6)))

/-- The offset of a channel register: its offset for channel 0, with bit 6 the channel (R37). -/
def chanOffset (base : BitVec 9) : Chan → BitVec 9
  | .ch0 => base
  | .ch1 => base ||| 0x040

/-- The offset of a register from BLK_BASE (R37). -/
def regOffset : Reg → BitVec 9
  | .seqCtrl => 0x000
  | .seqFlags => 0x004
  | .seqFstat => 0x008
  | .cgenTxf => 0x010
  | .chReadAddr c => chanOffset 0x100 c
  | .chWriteAddr c => chanOffset 0x104 c
  | .chTransCount c => chanOffset 0x108 c
  | .chCtrlTrig c => chanOffset 0x10C c
  | .chCtrl c => chanOffset 0x110 c
  | .chReadAddrTrig c => chanOffset 0x114 c
  | .chTransRemain c => chanOffset 0x118 c
  | .chanAbort => 0x180

/-- The operation that reads a register (R84, column read). -/
def readInstr : Reg → Instr
  | .seqCtrl => .rdSeqCtrl
  | .seqFlags => .rdSeqFlags
  | .seqFstat => .rdSeqFstat
  | .cgenTxf => .rdCgenTxf
  | .chReadAddr c => .rdChReadAddr c
  | .chWriteAddr c => .rdChWriteAddr c
  | .chTransCount c => .rdChTransCount c
  | .chCtrlTrig c => .rdChCtrlTrig c
  | .chCtrl c => .rdChCtrl c
  | .chReadAddrTrig c => .rdChReadAddrTrig c
  | .chTransRemain c => .rdChTransRemain c
  | .chanAbort => .rdChanAbort

/-- The operation that writes a value to a register (R84, column write). -/
def writeInstr (v : Word) : Reg → Instr
  | .seqCtrl => .wrSeqCtrl v
  | .seqFlags => .wrSeqFlags v
  | .seqFstat => .wrSeqFstat v
  | .cgenTxf => .wrCgenTxf v
  | .chReadAddr c => .wrChReadAddr c v
  | .chWriteAddr c => .wrChWriteAddr c v
  | .chTransCount c => .wrChTransCount c v
  | .chCtrlTrig c => .wrChCtrlTrig c v
  | .chCtrl c => .wrChCtrl c v
  | .chReadAddrTrig c => .wrChReadAddrTrig c v
  | .chTransRemain c => .wrChTransRemain c v
  | .chanAbort => .wrChanAbort v

/-- Decode a bus access to the register window (R84); an unmapped offset is rejected by name. -/
def decodeAccess (b : BusAccess) : Except DecodeError Instr :=
  match regAt b.offset with
  | some r => .ok (match b.dir with
    | .read => readInstr r
    | .write => writeInstr b.data r)
  | none => .error (.unmappedOffset b.offset)

/-- The decoder: total, and every code it does not know is rejected by name (R84, R85, R87). -/
def decode : Code → Except DecodeError Instr
  | .term t => decodeTerm t
  | .access b => decodeAccess b

/-- An OP8 code of unit 4: the operation in bits 2:0 and the channel in bit 3 (R85). -/
def dmaCode (base : BitVec 8) : Chan → BitVec 8
  | .ch0 => base
  | .ch1 => base ||| 0x08

/-- The read access of a register. -/
def readCode (r : Reg) : Code := .access { offset := regOffset r, dir := .read }

/-- The write access of a register with a value. -/
def writeCode (r : Reg) (v : Word) : Code := .access { offset := regOffset r, dir := .write, data := v }

/-- The encoder: the term (R85) or the bus access (R84) of an operation; fields the operation does not use are at their
defaults (R89: unused fields omitted). -/
def encode : Instr → Code
  | .hostLdw a w n => .term { op := 0x00, a := a, width := w, name := n }
  | .hostStw a v w => .term { op := 0x01, a := a, v := v, width := w }
  | .hAp => .term { op := 0x20 }
  | .hSp => .term { op := 0x21 }
  | .hBp => .term { op := 0x22 }
  | .vHold => .term { op := 0x40 }
  | .vVis => .term { op := 0x41 }
  | .vFp => .term { op := 0x42 }
  | .vSpl => .term { op := 0x43 }
  | .vSph => .term { op := 0x44 }
  | .vBp => .term { op := 0x45 }
  | .cWait => .term { op := 0x60 }
  | .cTake => .term { op := 0x61 }
  | .cOut => .term { op := 0x62 }
  | .cStall => .term { op := 0x63 }
  | .cDwell => .term { op := 0x64 }
  | .cBlank => .term { op := 0x65 }
  | .dmaXfer c => .term { op := dmaCode 0x80 c }
  | .dmaTrigger c => .term { op := dmaCode 0x81 c }
  | .dmaAbort c => .term { op := dmaCode 0x82 c }
  | .pxXlate x y => .term { op := 0xA0, x := x, y := y }
  | .pxMask c => .term { op := 0xA1, col := c }
  | .pxSet x y c => .term { op := 0xA2, x := x, y := y, col := c }
  | .pxGet x y n => .term { op := 0xA3, x := x, y := y, name := n }
  | .pxFill c => .term { op := 0xA4, col := c }
  | .sysStart => .term { op := 0xC0 }
  | .sysStop => .term { op := 0xC1 }
  | .rdSeqCtrl => readCode .seqCtrl
  | .rdSeqFlags => readCode .seqFlags
  | .rdSeqFstat => readCode .seqFstat
  | .rdCgenTxf => readCode .cgenTxf
  | .rdChReadAddr c => readCode (.chReadAddr c)
  | .rdChWriteAddr c => readCode (.chWriteAddr c)
  | .rdChTransCount c => readCode (.chTransCount c)
  | .rdChCtrlTrig c => readCode (.chCtrlTrig c)
  | .rdChCtrl c => readCode (.chCtrl c)
  | .rdChReadAddrTrig c => readCode (.chReadAddrTrig c)
  | .rdChTransRemain c => readCode (.chTransRemain c)
  | .rdChanAbort => readCode .chanAbort
  | .wrSeqCtrl v => writeCode .seqCtrl v
  | .wrSeqFlags v => writeCode .seqFlags v
  | .wrSeqFstat v => writeCode .seqFstat v
  | .wrCgenTxf v => writeCode .cgenTxf v
  | .wrChReadAddr c v => writeCode (.chReadAddr c) v
  | .wrChWriteAddr c v => writeCode (.chWriteAddr c) v
  | .wrChTransCount c v => writeCode (.chTransCount c) v
  | .wrChCtrlTrig c v => writeCode (.chCtrlTrig c) v
  | .wrChCtrl c v => writeCode (.chCtrl c) v
  | .wrChReadAddrTrig c v => writeCode (.chReadAddrTrig c) v
  | .wrChTransRemain c v => writeCode (.chTransRemain c) v
  | .wrChanAbort v => writeCode .chanAbort v

/-- The code of a word of the opcode table's numbering. Eight bits are the operation code of a term whose operand
fields are at their defaults. Sixteen bits are a bus access: bits 8:0 the offset of R84, and bit 9 the direction, 0 read
and 1 write, because the nine bits of the table do not tell a read from a write; the value written is 0.
(DESIGN CHOICE, log entry 14.) -/
def tableCode (nbits w : Nat) : Option Code :=
  if nbits = 8 ∧ w < 2 ^ 8 then some (.term { op := BitVec.ofNat 8 w })
  else if nbits = 16 ∧ w < 2 ^ 10 then
    some (.access { offset := BitVec.ofNat 9 w, dir := if w < 2 ^ 9 then .read else .write })
  else none

/-- The operation the decoder reads from a word numbered as spec/opcode_table.json numbers it. -/
def decodeTableWord (nbits w : Nat) : Option Instr :=
  match tableCode nbits w with
  | some c => (decode c).toOption
  | none => none

end Sys2Proof
end

