-- ==== Sys2Proof/Config.lean ====
section
/-! DEFINITION. What an implementation fixes (the parameters of R8 and R9, under the spec's own names) and the values the
spec leaves free (the draws of R17 and the choices of R13): opaque constants with no body, so that a theorem about
one holds whatever it is. -/

namespace Sys2Proof

/-- A display colour a COLOR bit may drive: one of the three guns of the display (R9, R79, R80; log entry 25). -/
inductive Gun where
  | red
  | green
  | blue
  deriving DecidableEq, Repr

/-- PIN_MAP (R9, R79): which display colour each COLOR bit drives. -/
structure PinMap where
  bit0 : Gun
  bit1 : Gun
  bit2 : Gun
  deriving DecidableEq, Repr

/-- The parameters of the block (R8, R9), natural numbers fixed for a run (R18). Addresses are byte addresses. -/
structure Params where
  /-- horizontal resolution, pixels per line -/
  H : Nat
  /-- vertical resolution, visible lines per frame -/
  V : Nat
  /-- HGEN cycles of the combined visible and front-porch region -/
  H_AP : Nat
  /-- HGEN cycles of the horizontal sync pulse -/
  H_SP : Nat
  /-- HGEN cycles of the horizontal back porch -/
  H_BP : Nat
  /-- front-porch lines -/
  V_FP : Nat
  /-- vertical-sync lines with VSYNC low -/
  V_SPL : Nat
  /-- vertical-sync lines after the low sub-span with VSYNC high -/
  V_SPH : Nat
  /-- back-porch lines -/
  V_BP : Nat
  /-- CGEN cycles per pixel -/
  C_PIX : Nat
  /-- CGEN input FIFO depth in words -/
  F : Nat
  /-- base of the register window -/
  BLK_BASE : Nat
  /-- base of the memory region -/
  MEM_BASE : Nat
  /-- size of the memory region in bytes -/
  MEM_SIZE : Nat
  /-- address of framebuffer word 0 -/
  FB_BASE : Nat
  /-- address of the word holding FB_BASE -/
  BASEPTR_ADDR : Nat
  /-- which display colour each COLOR bit drives -/
  PIN_MAP : PinMap
  /-- clock divisor of HGEN, used by the timed schedule of R19 only -/
  D_H : Nat
  /-- clock divisor of VGEN -/
  D_V : Nat
  /-- clock divisor of CGEN -/
  D_C : Nat
  /-- clock divisor of the two DMA channels -/
  D_DMA : Nat
  deriving DecidableEq, Repr

/-- FREE VALUE. What a byte of memory never written since reset reads as (R56, R60, I20: one draw per word, fixed at
reset). (DESIGN CHOICE of form, log entry 6.) -/
opaque Config.powerOnByte : Nat → Byte

/-- FREE VALUE. The n-th draw of the pipeline latch C_NEXT, taken at reset and at every restart of CGEN (R30, I21).
(DESIGN CHOICE of form, log entry 7.) -/
opaque Config.latchDraw : Nat → Word

/-- FREE VALUE. The agent the scheduler chooses first at the n-th step, where the script in State makes no choice
(R13). (DESIGN CHOICE of form, log entry 3.) -/
opaque Config.freeAgent : Nat → Agent

/-- FREE VALUE. The pacing signal, at the n-th step, of a running channel whose TREQ_SEL was changed to a value R117 gives
no signal for. (DESIGN CHOICE, log entry 8.) -/
opaque Config.freeDreq : BitVec 6 → Nat → Bool

end Sys2Proof
end

