-- ==== Sys2Proof/Machine/Cfg.lean ====
section
/-! DEFINITION. The fixed constants (R7), the derived parameters (R10) and the configuration check CFG (R11). -/

namespace Sys2Proof

/-- B, bits per pixel (R7). -/
def bitsPerPixel : Nat := 3

/-- U, usable bits per transfer word (R7). -/
def usableBits : Nat := 30

/-- P = U/B, pixels per word (R7). -/
def pixelsPerWord : Nat := 10

/-- N, the framebuffer word count (R10). -/
def Params.N (p : Params) : Nat := p.H * p.V * bitsPerPixel / usableBits

/-- WPR, words per line (R10). -/
def Params.WPR (p : Params) : Nat := p.H * bitsPerPixel / usableBits

/-- T_H, the line period in HGEN cycles (R10). -/
def Params.T_H (p : Params) : Nat := p.H_AP + p.H_SP + p.H_BP

/-- T_V, the frame period in lines (R10). -/
def Params.T_V (p : Params) : Nat := p.V + p.V_FP + p.V_SPL + p.V_SPH + p.V_BP

/-- The largest value of a unit counter (CFG3). -/
def maxWord : Nat := 2 ^ 32 - 1

/-- The size of the register window in bytes (R37). -/
def windowSize : Nat := 0x200

/-- CFG1: (H*B) mod U = 0. -/
def Params.cfg1 (p : Params) : Bool := p.H * bitsPerPixel % usableBits == 0

/-- CFG2: H >= 10 and V >= 1. -/
def Params.cfg2 (p : Params) : Bool := decide (10 ≤ p.H) && decide (1 ≤ p.V)

/-- A count that a unit counter is loaded with: at least `lo` and at most 2^32 - 1. -/
def countOk (lo n : Nat) : Bool := decide (lo ≤ n) && decide (n ≤ maxWord)

/-- CFG3. "Every timing parameter at most 2^32 - 1 (the width of the unit counters)" is read over every parameter a unit
counter is loaded with, H (C_PX) and V (V_CNT) included. (DEDUCED, log entry 19.) -/
def Params.cfg3 (p : Params) : Bool :=
  countOk 1 p.H_AP && countOk 1 p.H_SP && countOk 1 p.H_BP && countOk 1 p.V_FP && countOk 1 p.V_SPL &&
  countOk 0 p.V_SPH && countOk 1 p.V_BP && countOk 1 p.C_PIX && countOk 0 p.H && countOk 0 p.V &&
  decide (1 ≤ p.F) && decide (p.F ≤ 255)

/-- CFG4: 1 <= N <= 2^32 - 1. -/
def Params.cfg4 (p : Params) : Bool := countOk 1 p.N

/-- CFG5: the four bases are multiples of 4 and FB_BASE is not 0. -/
def Params.cfg5 (p : Params) : Bool :=
  p.FB_BASE % 4 == 0 && p.BASEPTR_ADDR % 4 == 0 && p.BLK_BASE % 4 == 0 && p.MEM_BASE % 4 == 0 && p.FB_BASE != 0

/-- [a, a + n) lies inside [b, b + m). -/
def inside (a n b m : Nat) : Bool := decide (b ≤ a) && decide (a + n ≤ b + m)

/-- [a, a + n) and [b, b + m) do not overlap. -/
def disjoint (a n b m : Nat) : Bool := decide (a + n ≤ b) || decide (b + m ≤ a)

/-- CFG6: the framebuffer and the base-pointer word lie inside the memory region and do not overlap. -/
def Params.cfg6 (p : Params) : Bool :=
  inside p.FB_BASE (4 * p.N) p.MEM_BASE p.MEM_SIZE && inside p.BASEPTR_ADDR 4 p.MEM_BASE p.MEM_SIZE &&
  disjoint p.FB_BASE (4 * p.N) p.BASEPTR_ADDR 4

/-- CFG7: the memory region and the register window do not overlap and neither wraps past 2^32. -/
def Params.cfg7 (p : Params) : Bool :=
  disjoint p.MEM_BASE p.MEM_SIZE p.BLK_BASE windowSize && decide (p.MEM_BASE + p.MEM_SIZE ≤ 2 ^ 32) &&
  decide (p.BLK_BASE + windowSize ≤ 2 ^ 32)

/-- The configuration check CFG (R11). -/
def Params.cfgOk (p : Params) : Bool :=
  p.cfg1 && p.cfg2 && p.cfg3 && p.cfg4 && p.cfg5 && p.cfg6 && p.cfg7

end Sys2Proof
end

