-- ==== Sys2Proof/Machine/Units.lean ====
section
/-! DEFINITION. The registers of each unit as plain data (10_state.md sections 2 to 7), the records of faults and refusals
(R54, R184, R185), and the HOST agent's own data. -/

namespace Sys2Proof.Machine

/-- H_PHASE (R22): AP = 0, SP = 1, BP = 2; the value 3 is never held. -/
inductive HPhase where
  | ap
  | sp
  | bp
  deriving DecidableEq, Repr

/-- V_PHASE (R23): VIS = 0, FP = 1, SPL = 2, SPH = 3, BP = 4; the values 5 to 7 are never held. -/
inductive VPhase where
  | vis
  | fp
  | spl
  | sph
  | bp
  deriving DecidableEq, Repr

/-- C_PHASE (R24): WAITB = 0, PIXEL = 1, DWELL = 2, BLANK = 3. -/
inductive CPhase where
  | waitb
  | pixel
  | dwell
  | blank
  deriving DecidableEq, Repr

/-- The registers of HGEN (R22, R25). -/
structure HGen where
  /-- H_PHASE -/
  phase : HPhase
  /-- H_CNT: cycles remaining in the phase, the current one included -/
  cnt : Word
  /-- HSYNC_OUT -/
  hsync : Bool
  deriving DecidableEq, Repr

/-- The registers of VGEN (R23, R25). -/
structure VGen where
  /-- V_PHASE -/
  phase : VPhase
  /-- V_CNT: lines remaining in the phase, the next one to be consumed included -/
  cnt : Word
  /-- VSYNC_OUT -/
  vsync : Bool
  deriving DecidableEq, Repr

/-- The registers of CGEN, its output register and its input FIFO (R24, R25, R34). -/
structure CGen where
  /-- C_PHASE -/
  phase : CPhase
  /-- C_PX: pixels of the current line still to be driven -/
  px : Word
  /-- C_OSR: the output shift register -/
  osr : Word
  /-- C_OSRN: pixels left in C_OSR, 0 to 10 -/
  osrn : BitVec 4
  /-- C_NEXT: the one-word pipeline latch -/
  next : Word
  /-- C_DW: dwell cycles left for the pixel being driven -/
  dw : Word
  /-- COLOR_OUT -/
  color : BitVec 3
  /-- the input FIFO, oldest word first -/
  fifo : List Word
  deriving DecidableEq, Repr

/-- The fields of a channel's control word other than BUSY (R46). -/
structure Ctrl where
  en : Bool
  highPriority : Bool
  dataSize : BitVec 2
  incrRead : Bool
  incrWrite : Bool
  chainTo : BitVec 4
  treqSel : BitVec 6
  deriving DecidableEq, Repr

/-- The state of one DMA channel (R35). -/
structure Channel where
  readAddr : Word
  writeAddr : Word
  transCount : Word
  ctrl : Ctrl
  remain : Word
  busy : Bool
  deriving DecidableEq, Repr

/-- A recorded fault: the code and the information R184 gives with it. -/
inductive FaultRec where
  /-- 1 FLT_MISALIGNED, the address -/
  | misaligned (a : Word)
  /-- 2 FLT_UNMAPPED, the address -/
  | unmapped (a : Word)
  /-- 3 FLT_RESERVED, (offset, value) -/
  | reserved (o : BitVec 9) (v : Word)
  /-- 4 FLT_ACCESS, the offset -/
  | access (o : BitVec 9)
  /-- 5 FLT_FIFO_OVERFLOW, the value -/
  | fifoOverflow (v : Word)
  /-- 6 FLT_TRIGGER_BUSY, the channel -/
  | triggerBusy (c : Chan)
  /-- 7 FLT_ZERO_COUNT, the channel -/
  | zeroCount (c : Chan)
  /-- 8 FLT_BAD_CTRL, the channel -/
  | badCtrl (c : Chan)
  /-- 9 FLT_PIXEL_RANGE, (x, y) -/
  | pixelRange (x y : Nat)
  deriving DecidableEq, Repr

/-- A recorded refusal (R185). -/
inductive RefusalRec where
  /-- 1 REF_OPCODE -/
  | opcode
  /-- 2 REF_COLOR -/
  | color
  /-- 3 REF_WIDTH -/
  | width
  /-- 4 REF_CONFIG -/
  | config
  /-- 5 REF_STATE -/
  | state
  deriving DecidableEq, Repr

/-- The value an operation returns: a word (LDW, MASK, GET, a register read) or the translator's triple (R136). The model's
own, since the host's outcome has no place for it. (DESIGN CHOICE, log entry 16.) -/
inductive Ret where
  | none
  | word (v : Word)
  | pixel (k p : Nat) (a : Word)
  deriving DecidableEq, Repr

/-- A HOST.STW still to come of a pseudo-operation's expansion: address and value. -/
structure Store where
  addr : Word
  value : Word
  deriving DecidableEq, Repr

/-- The HOST agent (R4): the lines still to be issued, the stores still to come of the pseudo-operation in progress
(R90), the NAMEs bound (R89), and the value the last operation returned. -/
structure HostAgent where
  prog : List Line
  pending : List Store
  names : List (Name × Word)
  ret : Ret
  deriving DecidableEq, Repr

end Sys2Proof.Machine
end

