-- ==== Sys2Proof/Machine/Init.lean ====
section
/-! DEFINITION. The units' initial states INIT_H, INIT_V and INIT_C (R28, R29, R30), an idle channel (R55), and the
configuration State.reset is launched with. -/

namespace Sys2Proof.Machine

/-- INIT_H (R28). -/
def initHGen (p : Params) : HGen := { phase := .ap, cnt := BitVec.ofNat 32 p.H_AP, hsync := true }

/-- INIT_V (R29). -/
def initVGen (p : Params) : VGen := { phase := .vis, cnt := BitVec.ofNat 32 p.V, vsync := true }

/-- INIT_C (R30), with the draw its latch takes. -/
def initCGen (draw : Word) : CGen :=
  { phase := .waitb, px := 0, osr := 0, osrn := 0, next := draw, dw := 0, color := 0, fifo := [] }

/-- Every CTRL field 0 (R55). -/
def initCtrl : Ctrl :=
  { en := false, highPriority := false, dataSize := 0, incrRead := false, incrWrite := false, chainTo := 0, treqSel := 0 }

/-- A channel after block reset (R55). -/
def initChannel : Channel :=
  { readAddr := 0, writeAddr := 0, transCount := 0, ctrl := initCtrl, remain := 0, busy := false }

/-- The HOST agent before a program is loaded. (DESIGN CHOICE, log entries 2 and 28.) -/
def initHost : HostAgent := { prog := [], pending := [], names := [], ret := .none }

/-- The configuration of State.reset: T1 of 95_test_vectors.md section 0, the one every program and whole-machine vector of
the spec uses; the spec leaves every parameter OPEN. PIN_MAP and the clock divisors are those of schedule S1 and one gun
a bit. (DESIGN CHOICE, log entries 1 and 25.) -/
def launchParams : Params :=
  { H := 20, V := 3, H_AP := 24, H_SP := 4, H_BP := 4, V_FP := 1, V_SPL := 1, V_SPH := 0, V_BP := 1, C_PIX := 1, F := 4,
    BLK_BASE := 0x40000000, MEM_BASE := 0x20000000, MEM_SIZE := 0x10000, FB_BASE := 0x20000100,
    BASEPTR_ADDR := 0x20000000, PIN_MAP := { bit0 := .red, bit1 := .green, bit2 := .blue },
    D_H := 1, D_V := 1, D_C := 1, D_DMA := 1 }

end Sys2Proof.Machine
end

