-- ==== Sys2Proof/Machine/State.lean ====
section
/-! DEFINITION. The machine state (R12, R21): the block's registers, memory, the configuration, the fault and refusal
records, the HOST agent and the scheduler's data; the reasons a step stops; and the state after block reset (R55). -/

namespace Sys2Proof.Machine

/-- The machine state, plain data (R12). -/
structure State where
  /-- the configuration, fixed for a run (R12, R18) -/
  cfg : Params
  hgen : HGen
  vgen : VGen
  cgen : CGen
  /-- FLAG_A (R31) -/
  flagA : Bool
  /-- FLAG_B (R32) -/
  flagB : Bool
  /-- SEQ_CTRL.SM_EN: bit 0 HGEN, bit 1 VGEN, bit 2 CGEN (R39) -/
  smEn : BitVec 3
  /-- the data channel (R116) -/
  ch0 : Channel
  /-- the control channel (R116) -/
  ch1 : Channel
  /-- the bytes of memory written since reset, by rising address (R60, R61) -/
  mem : List Host.Cell
  /-- FAULT (R54, R184) -/
  faultRec : Option FaultRec
  /-- REFUSED (R54, R185) -/
  refusedRec : Option RefusalRec
  host : HostAgent
  /-- the environment's scheduling choices still to come (R13; log entry 3) -/
  sched : List Agent
  /-- how many steps were taken; only the free values read it (log entries 3 and 8) -/
  tick : Nat
  /-- how many draws of the pipeline latch were taken (log entry 7) -/
  draws : Nat
  deriving DecidableEq, Repr

/-- Why a step stops with a fault. -/
inductive Fault where
  /-- Raised by `step` from a state whose FAULT is recorded: no agent has an enabled operation (R186). Safe: the machine
  halts where the spec says it halts. -/
  | halted (f : FaultRec)
  /-- Raised by `step` where the host program is finished and no agent has an enabled operation: the end of a run (R218).
  Safe: the model takes no step there that the spec does not give. Unsafe only for a claim that the run has ended, where a
  running channel waits for a pacing signal that is a free value (log entry 35) or the program ended without `stop` (log
  entry 37). -/
  | runEnded
  deriving DecidableEq, Repr

/-- Why a step, or an operation, is refused. -/
inductive Refusal where
  /-- Raised by `exec` for an operation that has no meaning yet. Safe: the operation is not interpreted. -/
  | notModelled (mnemonic : String)
  /-- Raised by `step` from a state whose REFUSED is recorded: no agent has an enabled operation (R186). Safe: the machine
  halts where the spec says it halts. -/
  | halted (r : RefusalRec)
  /-- Raised by `exec` for an operation whose "Enabled when" condition does not hold in the state, so that no agent performs
  it there (R14, R91, R118, R186); `step` never selects one. Safe: the spec gives no such transition. -/
  | notEnabled
  /-- Raised by `step` for a host program line whose VALUE is a NAME not bound earlier, which R89 does not allow. Safe: the
  line is not interpreted (log entry 18). -/
  | unboundName (n : Name)
  deriving DecidableEq, Repr

/-- Block reset with a configuration (R55, R56, R203); a configuration that fails CFG is refused before any operation
(R187). -/
def State.resetWith (p : Params) : State :=
  { cfg := p
    hgen := initHGen p
    vgen := initVGen p
    cgen := initCGen (Config.latchDraw 0)
    flagA := false
    flagB := false
    smEn := 0
    ch0 := initChannel
    ch1 := initChannel
    mem := []
    faultRec := none
    refusedRec := if p.cfgOk then none else some .config
    host := initHost
    sched := []
    tick := 0
    draws := 1 }

/-- Block reset with the launch configuration (log entry 1). -/
def State.reset : State := State.resetWith launchParams

end Sys2Proof.Machine
end

