-- ==== Sys2Proof/Machine/Operands.lean ====
section
/-! DEFINITION. Operand forms: the bytes of a word (R61), the fields of register values (R83) and the control word (R46, R47),
the address translator (R136), the tiling mask (R81), the pixel fields of a framebuffer word (R76, R143, R144), and
the register codes of the phases (R22, R23, R24). -/

namespace Sys2Proof.Machine

/-- A bit as a word. -/
def bitWord (b : Bool) : Word := if b then 1 else 0

/-- Byte i of a word, byte 0 the least significant (R61). -/
def byteOf (w : Word) (i : Nat) : Byte := (w >>> (8 * i)).setWidth 8

/-- The word of four bytes, b0 at the lowest address (R61: little-endian). -/
def wordOfBytes (b0 b1 b2 b3 : Byte) : Word := b3 ++ b2 ++ b1 ++ b0

/-- The code of H_PHASE (R22). -/
def hPhaseCode : HPhase → BitVec 2
  | .ap => 0
  | .sp => 1
  | .bp => 2

/-- The code of V_PHASE (R23). -/
def vPhaseCode : VPhase → BitVec 3
  | .vis => 0
  | .fp => 1
  | .spl => 2
  | .sph => 3
  | .bp => 4

/-- The code of C_PHASE (R24). -/
def cPhaseCode : CPhase → BitVec 2
  | .waitb => 0
  | .pixel => 1
  | .dwell => 2
  | .blank => 3

/-- The number of a fault code (R184). -/
def faultCode : FaultRec → Nat
  | .misaligned _ => 1
  | .unmapped _ => 2
  | .reserved _ _ => 3
  | .access _ => 4
  | .fifoOverflow _ => 5
  | .triggerBusy _ => 6
  | .zeroCount _ => 7
  | .badCtrl _ => 8
  | .pixelRange _ _ => 9

/-- The number of a refusal reason (R185). -/
def refusalCode : RefusalRec → Nat
  | .opcode => 1
  | .color => 2
  | .width => 3
  | .config => 4
  | .state => 5

/-- The reserved mask of SEQ_CTRL (R83). -/
def seqCtrlReserved : Word := 0xFFFFFF88

/-- The reserved mask of SEQ_FLAGS (R83). -/
def seqFlagsReserved : Word := 0xFFFFFFFC

/-- The reserved mask of CTRL (R83). -/
def ctrlReserved : Word := 0xFEE007C0

/-- The reserved mask of CHAN_ABORT (R83). -/
def chanAbortReserved : Word := 0xFFFFFFFC

/-- The fields a write of v stores in a channel's control word; v[24] is ignored (R83, R172). -/
def ctrlOfWord (v : Word) : Ctrl :=
  { en := v.getLsbD 0
    highPriority := v.getLsbD 1
    dataSize := v.extractLsb' 2 2
    incrRead := v.getLsbD 4
    incrWrite := v.getLsbD 5
    chainTo := v.extractLsb' 11 4
    treqSel := v.extractLsb' 15 6 }

/-- The control word a read of CHc_CTRL or CHc_CTRL_TRIG returns (R47). -/
def ctrlWord (k : Ctrl) (busy : Bool) : Word :=
  bitWord busy <<< 24 ||| k.treqSel.setWidth 32 <<< 15 ||| k.chainTo.setWidth 32 <<< 11 ||| bitWord k.incrWrite <<< 5 |||
  bitWord k.incrRead <<< 4 ||| k.dataSize.setWidth 32 <<< 2 ||| bitWord k.highPriority <<< 1 ||| bitWord k.en

/-- CTRL values a trigger admits (R51): word transfers, chaining to channel 0 or 1, paced by the FIFO or unpaced. -/
def ctrlLegal (k : Ctrl) : Bool :=
  k.dataSize == 2 && decide (k.chainTo ≤ 1) && (k.treqSel == 2 || k.treqSel == 0x3F)

/-- What the translator returns (R136): word index, bit offset, byte address. -/
structure Xlated where
  k : Nat
  p : Nat
  addr : Word
  deriving DecidableEq, Repr

/-- The byte address of framebuffer word k (R67). -/
def fbAddr (p : Params) (k : Nat) : Word := BitVec.ofNat 32 (p.FB_BASE + 4 * k)

/-- The linear bit number n of a pixel (R136). -/
def pixelBit (p : Params) (x y : Nat) : Nat := y * p.H * bitsPerPixel + x * bitsPerPixel

/-- The word index of display position j: one behind, wrapping to the last word (R136). -/
def wordIndex (p : Params) (j : Nat) : Nat := if j = 0 then p.N - 1 else j - 1

/-- XLATE, the packed-framebuffer address translator (R136). -/
def xlate (p : Params) (x y : Nat) : Except FaultRec Xlated :=
  if x ≥ p.H ∨ y ≥ p.V then .error (.pixelRange x y)
  else
    let k := wordIndex p (pixelBit p x y / usableBits)
    .ok { k := k, p := pixelBit p x y % usableBits, addr := fbAddr p k }

/-- The tiling mask M(c) (R81, R142). -/
def tilingMask (c : Nat) : Word := BitVec.ofNat 32 (c * 0x09249249)

/-- A word with the field at bit offset p replaced by colour c (R143). -/
def withPixel (w : Word) (p c : Nat) : Word := (w &&& ~~~((7 : Word) <<< p)) ||| (BitVec.ofNat 32 c <<< p)

/-- The field of a word at bit offset p (R144). -/
def pixelOf (w : Word) (p : Nat) : Word := (w >>> p) &&& 7

/-- Slot s of a framebuffer word (R76). -/
def slotOf (w : Word) (s : Nat) : BitVec 3 := w.extractLsb' (3 * s) 3

end Sys2Proof.Machine
end

