-- ==== Sys2Proof/Machine/Flags.lean ====
section
/-! DEFINITION. The two interrupt flags (R31, R32, R33) and the flag bits the host reads: SEQ_FLAGS (R40) and SEQ_FSTAT
(R41). The block has no condition codes (R31). -/

namespace Sys2Proof.Machine

/-- HGEN sets FLAG_A; a flag already 1 stays 1 and the event is lost (R31, R33). -/
def raiseA (s : State) : State := { s with flagA := true }

/-- FLAG_A is cleared, by VGEN on consumption or by the host (R31). -/
def clearA (s : State) : State := { s with flagA := false }

/-- VGEN sets FLAG_B; a flag already 1 stays 1 and the event is lost (R32, R33). -/
def raiseB (s : State) : State := { s with flagB := true }

/-- FLAG_B is cleared, by CGEN on consumption or by the host (R32). -/
def clearB (s : State) : State := { s with flagB := false }

/-- Write 1 to clear: bit 0 clears FLAG_A, bit 1 clears FLAG_B, a 0 bit leaves the flag (R166). -/
def clearFlags (v : Word) (s : State) : State :=
  { s with flagA := s.flagA && !v.getLsbD 0, flagB := s.flagB && !v.getLsbD 1 }

/-- The value of SEQ_FLAGS (R40, R155). -/
def seqFlagsWord (s : State) : Word := bitWord s.flagB <<< 1 ||| bitWord s.flagA

/-- The CGEN FIFO level (R34). -/
def fifoLevel (s : State) : Nat := s.cgen.fifo.length

/-- TXEMPTY (R41). -/
def txEmpty (s : State) : Bool := fifoLevel s == 0

/-- TXFULL (R41). -/
def txFull (s : State) : Bool := fifoLevel s == s.cfg.F

/-- The value of SEQ_FSTAT (R41, R156). -/
def seqFstatWord (s : State) : Word :=
  bitWord (txEmpty s) <<< 9 ||| bitWord (txFull s) <<< 8 ||| BitVec.ofNat 32 (fifoLevel s)

end Sys2Proof.Machine
end

