-- ==== Sys2Proof/Machine/Ops.lean ====
section
/-! DEFINITION. The shared operations over memory, the registers and the channels: memory words (R60, R61), outcomes and records
(R183 to R186), unit restarts (R28 to R30), the FIFO (R34), trigger, completion and abort of a channel (R121, R122, R126),
the register reads and writes (R154 to R176), the bus accesses every master makes (R59), one transfer (R119), and
the host's stores (R90). The block has no trap (R194): what stands for taking an exception is `commit` and `recordFault`,
which record a fault and undo everything else; nothing returns from one (R195). -/

namespace Sys2Proof.Machine

/-! ### Memory -/

/-- The byte written at an address since reset, if one was. An address not listed holds no value: the read supplies the draw
(log entry 6). -/
def memGet : List Host.Cell → Nat → Option Byte
  | [], _ => none
  | (b, v) :: m, a => if a = b then some v else memGet m a

/-- Write one byte, keeping the addresses strictly rising. -/
def memSet : List Host.Cell → Nat → Byte → List Host.Cell
  | [], a, v => [(a, v)]
  | (b, w) :: m, a, v =>
    if a < b then (a, v) :: (b, w) :: m
    else if a = b then (a, v) :: m
    else (b, w) :: memSet m a v

/-- Every listed address is above `lo`, and they rise strictly. -/
def risingFrom : Nat → List Host.Cell → Bool
  | _, [] => true
  | lo, (a, _) :: m => decide (lo ≤ a) && risingFrom (a + 1) m

/-- The canonical form: addresses strictly rising. An unlisted address holds no value, so no entry equals what an unlisted
address holds, and equal memories are equal lists. -/
def memWf (m : List Host.Cell) : Bool := risingFrom 0 m

/-- The byte a read finds: the one written, or the draw of a byte never written since reset (R56, R60). -/
def readByte (m : List Host.Cell) (a : Nat) : Byte := (memGet m a).getD (Config.powerOnByte a)

/-- MemRead(a, 4) (R60, R61). -/
def memRead (m : List Host.Cell) (a : Nat) : Word :=
  wordOfBytes (readByte m a) (readByte m (a + 1)) (readByte m (a + 2)) (readByte m (a + 3))

/-- MemWrite(a, 4, v) (R60, R61). -/
def memWrite (m : List Host.Cell) (a : Nat) (v : Word) : List Host.Cell :=
  memSet (memSet (memSet (memSet m a (byteOf v 0)) (a + 1) (byteOf v 1)) (a + 2) (byteOf v 2)) (a + 3) (byteOf v 3)

/-! ### Outcomes and records -/

/-- A fault or a refusal is recorded: no agent has an enabled operation (R186). -/
def halted (s : State) : Bool := s.faultRec.isSome || s.refusedRec.isSome

/-- Record a fault (R184). -/
def recordFault (f : FaultRec) (s : State) : State := { s with faultRec := some f }

/-- Record a refusal (R185). -/
def recordRefusal (r : RefusalRec) (s : State) : State := { s with refusedRec := some r }

/-- An operation happens only where it is enabled (R14, R91, R186; log entry 5). -/
def guardOp (enabled : Bool) (o : Host.Outcome State Fault Refusal) : Host.Outcome State Fault Refusal :=
  if enabled then o else .refused .notEnabled

/-- The end of an operation: its next state, or, where it faults, the state before it with the fault recorded and every
other write undone (R183, R184). -/
def commit (s : State) : Except FaultRec State → Host.Outcome State Fault Refusal
  | .ok t => .next t
  | .error f => .next (recordFault f s)

/-- The end of a refused operation: it performs nothing (R185). -/
def refuse (r : RefusalRec) (s : State) : Host.Outcome State Fault Refusal := .next (recordRefusal r s)

/-- The state with the value an operation returns (log entry 16). -/
def withRet (r : Ret) (s : State) : State := { s with host := { s.host with ret := r } }

/-- The end of an operation that returns a word and changes nothing else (R153). -/
def returnWord (s : State) : Except FaultRec Word → Host.Outcome State Fault Refusal
  | .ok v => .next (withRet (.word v) s)
  | .error f => .next (recordFault f s)

/-! ### Units -/

/-- A bit of SEQ_CTRL.SM_EN: 0 HGEN, 1 VGEN, 2 CGEN (R39). -/
def unitEnabled (s : State) (u : Nat) : Bool := s.smEn.getLsbD u

/-- HGEN <- INIT_H (R28). -/
def restartH (s : State) : State := { s with hgen := initHGen s.cfg }

/-- VGEN <- INIT_V (R29). -/
def restartV (s : State) : State := { s with vgen := initVGen s.cfg }

/-- CGEN <- INIT_C: the FIFO is emptied and C_NEXT is a fresh draw (R30; log entry 7). -/
def restartC (s : State) : State := { s with cgen := initCGen (Config.latchDraw s.draws), draws := s.draws + 1 }

/-- push(v): append below the capacity, FLT_FIFO_OVERFLOW otherwise (R34, R168). -/
def pushFifo (v : Word) (s : State) : Except FaultRec State :=
  if fifoLevel s < s.cfg.F then .ok { s with cgen := { s.cgen with fifo := s.cgen.fifo ++ [v] } }
  else .error (.fifoOverflow v)

/-! ### Channels -/

/-- The state of a channel. -/
def chan (s : State) : Chan → Channel
  | .ch0 => s.ch0
  | .ch1 => s.ch1

/-- Replace the state of a channel. -/
def setChan (c : Chan) (k : Channel) (s : State) : State :=
  match c with
  | .ch0 => { s with ch0 := k }
  | .ch1 => { s with ch1 := k }

/-- Trigger, the start of a run of channel c (R121). -/
def trigger (c : Chan) (s : State) : Except FaultRec State :=
  let k := chan s c
  if k.ctrl.en = false then .ok s
  else if k.busy = true then .error (.triggerBusy c)
  else if k.transCount = 0 then .error (.zeroCount c)
  else if ctrlLegal k.ctrl = false then .error (.badCtrl c)
  else .ok (setChan c { k with remain := k.transCount, busy := true } s)

/-- Completion, the end of a run (R122). A CHAIN_TO above 1, stored while the channel ran, names no channel of the block; the
chained trigger is then FLT_BAD_CTRL of the completing channel (R51, R87). (DESIGN CHOICE, log entry 9.) -/
def complete (c : Chan) (s : State) : Except FaultRec State :=
  let k := chan s c
  let t := setChan c { k with busy := false } s
  if k.ctrl.chainTo.toNat = c.toNat then .ok t
  else match Chan.ofNat? k.ctrl.chainTo.toNat with
    | some d => trigger d t
    | none => .error (.badCtrl c)

/-- Abort of channel c (R126). -/
def abort (c : Chan) (s : State) : State :=
  let k := chan s c
  setChan c { k with ctrl := { k.ctrl with en := false }, busy := false, remain := 0 } s

/-- The pacing signal of channel c (R117). For a TREQ_SEL that R117 gives no signal for, which a write to CHc_CTRL can
store in a running channel, the signal is a free value (log entry 8). -/
def dreq (c : Chan) (s : State) : Bool :=
  let k := (chan s c).ctrl
  if k.treqSel = 2 then decide (fifoLevel s < s.cfg.F)
  else if k.treqSel = 0x3F then true
  else Config.freeDreq k.treqSel s.tick

/-- The transfer condition of channel c (R118). -/
def xferReady (c : Chan) (s : State) : Bool :=
  (chan s c).busy && (chan s c).ctrl.en && decide (0 < (chan s c).remain) && dreq c s

/-! ### Register reads (43_host_interface.md section 2) -/

/-- R154. -/
def readSeqCtrl (s : State) : Except FaultRec Word := .ok (s.smEn.setWidth 32)

/-- R155. -/
def readSeqFlags (s : State) : Except FaultRec Word := .ok (seqFlagsWord s)

/-- R156. -/
def readSeqFstat (s : State) : Except FaultRec Word := .ok (seqFstatWord s)

/-- R157: the FIFO port is write-only. -/
def readCgenTxf (_ : State) : Except FaultRec Word := .error (.access 0x010)

/-- R158. -/
def readChReadAddr (c : Chan) (s : State) : Except FaultRec Word := .ok (chan s c).readAddr

/-- R159. -/
def readChWriteAddr (c : Chan) (s : State) : Except FaultRec Word := .ok (chan s c).writeAddr

/-- R160: the configured count. -/
def readChTransCount (c : Chan) (s : State) : Except FaultRec Word := .ok (chan s c).transCount

/-- R161. -/
def readChCtrlTrig (c : Chan) (s : State) : Except FaultRec Word := .ok (ctrlWord (chan s c).ctrl (chan s c).busy)

/-- R161. -/
def readChCtrl (c : Chan) (s : State) : Except FaultRec Word := .ok (ctrlWord (chan s c).ctrl (chan s c).busy)

/-- R162: the read does not trigger. -/
def readChReadAddrTrig (c : Chan) (s : State) : Except FaultRec Word := .ok (chan s c).readAddr

/-- R163. -/
def readChTransRemain (c : Chan) (s : State) : Except FaultRec Word := .ok (chan s c).remain

/-- R164: the register is write-only. -/
def readChanAbort (_ : State) : Except FaultRec Word := .error (.access 0x180)

/-- A register read by any bus master (R153). -/
def readReg (s : State) : Reg → Except FaultRec Word
  | .seqCtrl => readSeqCtrl s
  | .seqFlags => readSeqFlags s
  | .seqFstat => readSeqFstat s
  | .cgenTxf => readCgenTxf s
  | .chReadAddr c => readChReadAddr c s
  | .chWriteAddr c => readChWriteAddr c s
  | .chTransCount c => readChTransCount c s
  | .chCtrlTrig c => readChCtrlTrig c s
  | .chCtrl c => readChCtrl c s
  | .chReadAddrTrig c => readChReadAddrTrig c s
  | .chTransRemain c => readChTransRemain c s
  | .chanAbort => readChanAbort s

/-! ### Register writes (43_host_interface.md section 3) -/

/-- The reserved-bit check every write rule begins with (R38). -/
def checkReserved (o : BitVec 9) (mask v : Word) (k : Except FaultRec State) : Except FaultRec State :=
  if v &&& mask = 0 then k else .error (.reserved o v)

/-- R165: restarts take effect before the new enables. -/
def writeSeqCtrl (v : Word) (s : State) : Except FaultRec State :=
  checkReserved 0x000 seqCtrlReserved v <|
    let s1 := if v.getLsbD 4 then restartH s else s
    let s2 := if v.getLsbD 5 then restartV s1 else s1
    let s3 := if v.getLsbD 6 then restartC s2 else s2
    .ok { s3 with smEn := v.extractLsb' 0 3 }

/-- R166. -/
def writeSeqFlags (v : Word) (s : State) : Except FaultRec State :=
  checkReserved 0x004 seqFlagsReserved v (.ok (clearFlags v s))

/-- R167: read-only. -/
def writeSeqFstat (_ : Word) (_ : State) : Except FaultRec State := .error (.access 0x008)

/-- R168. -/
def writeCgenTxf (v : Word) (s : State) : Except FaultRec State := pushFifo v s

/-- R169. -/
def writeChReadAddr (c : Chan) (v : Word) (s : State) : Except FaultRec State :=
  .ok (setChan c { chan s c with readAddr := v } s)

/-- R170. -/
def writeChWriteAddr (c : Chan) (v : Word) (s : State) : Except FaultRec State :=
  .ok (setChan c { chan s c with writeAddr := v } s)

/-- R171: REMAIN is not changed. -/
def writeChTransCount (c : Chan) (v : Word) (s : State) : Except FaultRec State :=
  .ok (setChan c { chan s c with transCount := v } s)

/-- The fields a write of v stores in channel c (R172). -/
def storeCtrl (c : Chan) (v : Word) (s : State) : State := setChan c { chan s c with ctrl := ctrlOfWord v } s

/-- R172: the fields are stored, legal or not, and nothing is triggered. -/
def writeChCtrl (c : Chan) (v : Word) (s : State) : Except FaultRec State :=
  checkReserved (regOffset (.chCtrl c)) ctrlReserved v (.ok (storeCtrl c v s))

/-- R173: the write of R172 and then, if EN was written 1, a trigger. The offset recorded with FLT_RESERVED is that of the
register written. (DEDUCED, log entry 12.) -/
def writeChCtrlTrig (c : Chan) (v : Word) (s : State) : Except FaultRec State :=
  checkReserved (regOffset (.chCtrlTrig c)) ctrlReserved v <|
    if v.getLsbD 0 then trigger c (storeCtrl c v s) else .ok (storeCtrl c v s)

/-- R174. -/
def writeChReadAddrTrig (c : Chan) (v : Word) (s : State) : Except FaultRec State :=
  trigger c (setChan c { chan s c with readAddr := v } s)

/-- R175: read-only. -/
def writeChTransRemain (c : Chan) (_ : Word) (_ : State) : Except FaultRec State :=
  .error (.access (regOffset (.chTransRemain c)))

/-- R176: both channels abort in the same operation where both bits are set. -/
def writeChanAbort (v : Word) (s : State) : Except FaultRec State :=
  checkReserved 0x180 chanAbortReserved v <|
    let s1 := if v.getLsbD 0 then abort .ch0 s else s
    let s2 := if v.getLsbD 1 then abort .ch1 s1 else s1
    .ok s2

/-- A register write by any bus master (R58, R84). -/
def writeReg (v : Word) (s : State) : Reg → Except FaultRec State
  | .seqCtrl => writeSeqCtrl v s
  | .seqFlags => writeSeqFlags v s
  | .seqFstat => writeSeqFstat v s
  | .cgenTxf => writeCgenTxf v s
  | .chReadAddr c => writeChReadAddr c v s
  | .chWriteAddr c => writeChWriteAddr c v s
  | .chTransCount c => writeChTransCount c v s
  | .chCtrlTrig c => writeChCtrlTrig c v s
  | .chCtrl c => writeChCtrl c v s
  | .chReadAddrTrig c => writeChReadAddrTrig c v s
  | .chTransRemain c => writeChTransRemain c v s
  | .chanAbort => writeChanAbort v s

/-! ### The bus (20_memory.md) -/

/-- The address lies in the register window (R57, R58). -/
def inWindow (p : Params) (a : Word) : Bool := decide (p.BLK_BASE ≤ a.toNat) && decide (a.toNat < p.BLK_BASE + windowSize)

/-- The offset of an address of the window (R58). -/
def windowOffset (p : Params) (a : Word) : BitVec 9 := BitVec.ofNat 9 (a.toNat - p.BLK_BASE)

/-- The word at the address lies in the memory region (R59). -/
def inMemory (p : Params) (a : Word) : Bool :=
  decide (p.MEM_BASE ≤ a.toNat) && decide (a.toNat + 4 ≤ p.MEM_BASE + p.MEM_SIZE)

/-- The address is a multiple of 4 (R62). -/
def aligned (a : Word) : Bool := a.toNat % 4 == 0

/-- BusRead(a) (R59). -/
def busRead (s : State) (a : Word) : Except FaultRec Word :=
  if aligned a = false then .error (.misaligned a)
  else if inWindow s.cfg a = true then
    match regAt (windowOffset s.cfg a) with
    | some r => readReg s r
    | none => .error (.unmapped a)
  else if inMemory s.cfg a = true then .ok (memRead s.mem a.toNat)
  else .error (.unmapped a)

/-- BusWrite(a, v) (R59). -/
def busWrite (s : State) (a : Word) (v : Word) : Except FaultRec State :=
  if aligned a = false then .error (.misaligned a)
  else if inWindow s.cfg a = true then
    match regAt (windowOffset s.cfg a) with
    | some r => writeReg v s r
    | none => .error (.unmapped a)
  else if inMemory s.cfg a = true then .ok { s with mem := memWrite s.mem a.toNat v }
  else .error (.unmapped a)

/-- The address one transfer on, where the channel increments it (R119, R120: 4 bytes, modulo 2^32). -/
def advance (incr : Bool) (a : Word) : Word := if incr then a + 4 else a

/-- The end of a transfer of channel c that used the addresses ra and wa (R119): unless the transfer's own write aborted the
channel, the addresses move on from the ones the transfer used, REMAIN counts down, and the last transfer completes the
run. The channel's fields are read after the write, in the order of R119. (DEDUCED, log entry 11.) -/
def finishXfer (c : Chan) (ra wa : Word) (s : State) : Except FaultRec State :=
  let k := chan s c
  if k.busy = false then .ok s
  else
    let t := setChan c { k with readAddr := advance k.ctrl.incrRead ra
                                writeAddr := advance k.ctrl.incrWrite wa
                                remain := k.remain - 1 } s
    if k.remain - 1 = 0 then complete c t else .ok t

/-- One word transfer of channel c (R119). DATA_SIZE is not read: every transfer moves a word. (DEDUCED, log entry 10.) -/
def xfer (c : Chan) (s : State) : Except FaultRec State :=
  match busRead s (chan s c).readAddr with
  | .error f => .error f
  | .ok v =>
    match busWrite s (chan s c).writeAddr v with
    | .error f => .error f
    | .ok t => finishXfer c (chan s c).readAddr (chan s c).writeAddr t

/-! ### The host's names and stores -/

/-- The value a NAME is bound to (R89). -/
def lookupName : List (Name × Word) → Name → Option Word
  | [], _ => none
  | (m, v) :: ns, n => if n = m then some v else lookupName ns n

/-- Bind a NAME; an earlier binding of it is replaced (R89, R150). -/
def bindName (n : Name) (v : Word) : List (Name × Word) → List (Name × Word)
  | [] => [(n, v)]
  | (m, w) :: ns => if n = m then (n, v) :: ns else (m, w) :: bindName n v ns

/-- The host binds a NAME to a value an operation returned (R150, R144). -/
def bindResult (n : Name) (v : Word) (s : State) : State :=
  { s with host := { s.host with names := bindName n v s.host.names, ret := .word v } }

/-- Perform the first of a list of HOST.STW operations now and leave the rest to come, each a host operation of its own
(R90, R152; log entry 15). -/
def issueStores (sts : List Store) (s : State) : Host.Outcome State Fault Refusal :=
  match sts with
  | [] => .next s
  | st :: rest => commit s (busWrite { s with host := { s.host with pending := rest ++ s.host.pending } } st.addr st.value)

end Sys2Proof.Machine
end

