-- ==== Sys2Proof/Machine/Cgen.lean ====
section
/-! DEFINITION. The color generator CGEN and the output register COLOR_OUT (40_timing_generators.md sections 3 and 4). -/

namespace Sys2Proof.Machine

/-- CGEN is enabled and in a phase (R91). -/
def cgenIn (ph : CPhase) (s : State) : Bool := !halted s && unitEnabled s 2 && decide (s.cgen.phase = ph)

/-- CGEN can drive a pixel: the shift register holds one, or the FIFO holds a word to load behind it (R106). -/
def canDrive (s : State) : Bool := decide (0 < s.cgen.osrn) || decide (0 < fifoLevel s)

/-- Load the shift register from the pipeline latch and the latch from the FIFO (R106, R111: the word driven is the one
popped one load earlier). -/
def loadWord (g : CGen) : CGen :=
  { g with osr := g.next
           next := g.fifo.headD g.next
           fifo := g.fifo.tail
           osrn := BitVec.ofNat 4 pixelsPerWord }

/-- Drive one pixel from the shift register, least-significant field first (R78, R106). -/
def drivePixel (cPix : Nat) (g : CGen) : CGen :=
  { g with color := g.osr.extractLsb' 0 3
           osr := g.osr >>> 3
           osrn := g.osrn - 1
           px := g.px - 1
           dw := if cPix > 1 then BitVec.ofNat 32 (cPix - 1) else g.dw
           phase := if cPix > 1 then .dwell else if g.px - 1 = 0 then .blank else g.phase }

/-- C.WAIT (R104): no row event, nothing changes. -/
def execCWait (s : State) : Host.Outcome State Fault Refusal :=
  guardOp (cgenIn .waitb s && !s.flagB) (.next s)

/-- C.TAKE (R105): the row event is consumed and a line of H pixels starts. -/
def execCTake (s : State) : Host.Outcome State Fault Refusal :=
  guardOp (cgenIn .waitb s && s.flagB) (.next
    { clearB s with cgen := { s.cgen with px := BitVec.ofNat 32 s.cfg.H, phase := .pixel } })

/-- C.OUT (R106): drive one pixel, loading a word first where the shift register is empty. -/
def execCOut (s : State) : Host.Outcome State Fault Refusal :=
  guardOp (cgenIn .pixel s && canDrive s) (.next
    { s with cgen := drivePixel s.cfg.C_PIX (if s.cgen.osrn = 0 then loadWord s.cgen else s.cgen) })

/-- C.STALL (R107): starved at a word boundary, nothing changes. -/
def execCStall (s : State) : Host.Outcome State Fault Refusal :=
  guardOp (cgenIn .pixel s && !canDrive s) (.next s)

/-- C.DWELL (R108): hold the pixel; the test reads the decremented count. -/
def execCDwell (s : State) : Host.Outcome State Fault Refusal :=
  guardOp (cgenIn .dwell s) (.next
    { s with cgen := { s.cgen with
        dw := s.cgen.dw - 1
        phase := if s.cgen.dw - 1 = 0 then (if s.cgen.px = 0 then .blank else .pixel) else .dwell } })

/-- C.BLANK (R109): drive 0 between lines. -/
def execCBlank (s : State) : Host.Outcome State Fault Refusal :=
  guardOp (cgenIn .blank s) (.next { s with cgen := { s.cgen with color := 0, phase := .waitb } })

end Sys2Proof.Machine
end

