-- ==== Sys2Proof/Machine/Dma.lean ====
section
/-! DEFINITION. The operations of a DMA channel (41_dma_streaming.md section 1). -/

namespace Sys2Proof.Machine

/-- DMA.XFER (R119), enabled by the transfer condition (R118). -/
def execDmaXfer (c : Chan) (s : State) : Host.Outcome State Fault Refusal :=
  guardOp (!halted s && xferReady c s) (commit s (xfer c s))

/-- DMA.TRIGGER (R121): internal, the last action of a trigger write or of a completion (R86). -/
def execDmaTrigger (c : Chan) (s : State) : Host.Outcome State Fault Refusal :=
  guardOp (!halted s) (commit s (trigger c s))

/-- DMA.ABORT (R126): internal, performed by a write to CHAN_ABORT (R86). -/
def execDmaAbort (c : Chan) (s : State) : Host.Outcome State Fault Refusal :=
  guardOp (!halted s) (.next (abort c s))

end Sys2Proof.Machine
end

