-- ==== Sys2Proof/Machine/Hgen.lean ====
section
/-! DEFINITION. The horizontal generator HGEN (40_timing_generators.md section 1): one cycle of each phase. -/

namespace Sys2Proof.Machine

/-- HGEN performs the operation of a phase: it is enabled and in that phase (R91, R93 to R95). -/
def hgenIn (ph : HPhase) (s : State) : Bool := !halted s && unitEnabled s 0 && decide (s.hgen.phase = ph)

/-- One cycle of a phase that drives HSYNC to `level`: the last cycle loads the next phase's count (R93, R94, R95). -/
def hgenCycle (level : Bool) (nxt : HPhase) (reload : Nat) (s : State) : State :=
  if s.hgen.cnt = 1 then { s with hgen := { phase := nxt, cnt := BitVec.ofNat 32 reload, hsync := level } }
  else { s with hgen := { s.hgen with cnt := s.hgen.cnt - 1, hsync := level } }

/-- H.AP (R93). -/
def execHAp (s : State) : Host.Outcome State Fault Refusal :=
  guardOp (hgenIn .ap s) (.next (hgenCycle true .sp s.cfg.H_SP s))

/-- H.SP (R94): the sync pulse is active low. -/
def execHSp (s : State) : Host.Outcome State Fault Refusal :=
  guardOp (hgenIn .sp s) (.next (hgenCycle false .bp s.cfg.H_BP s))

/-- H.BP (R95): the last back-porch cycle raises FLAG_A. -/
def execHBp (s : State) : Host.Outcome State Fault Refusal :=
  guardOp (hgenIn .bp s) (.next (hgenCycle true .ap s.cfg.H_AP (if s.hgen.cnt = 1 then raiseA s else s)))

end Sys2Proof.Machine
end

