-- ==== Sys2Proof/Machine/HostBus.lean ====
section
/-! DEFINITION. The two host bus operations (43_host_interface.md section 1). -/

namespace Sys2Proof.Machine

/-- HOST.LDW (R150): a word read, its result bound to a NAME. -/
def execHostLdw (a : Word) (width : Nat) (n : Name) (s : State) : Host.Outcome State Fault Refusal :=
  guardOp (!halted s) <|
    if width ≠ 4 then refuse .width s
    else match busRead s a with
      | .ok v => .next (bindResult n v s)
      | .error f => .next (recordFault f s)

/-- HOST.STW (R151): a word write. -/
def execHostStw (a v : Word) (width : Nat) (s : State) : Host.Outcome State Fault Refusal :=
  guardOp (!halted s) <|
    if width ≠ 4 then refuse .width s
    else commit s (busWrite s a v)

end Sys2Proof.Machine
end

