-- ==== Sys2Proof/Machine/Lifecycle.lean ====
section
/-! DEFINITION. The lifecycle pseudo-operations (43_host_interface.md section 4). -/

namespace Sys2Proof.Machine

/-- The address of a register of the window (R37). -/
def regAddr (p : Params) (r : Reg) : Word := BitVec.ofNat 32 (p.BLK_BASE + (regOffset r).toNat)

/-- The data channel's control word (R128). -/
def dataCtrl : Word := 0x0001081B

/-- The control channel's control word (R129). -/
def controlCtrl : Word := 0x001F8809

/-- A HOST.STW to a register. -/
def regStore (p : Params) (r : Reg) (v : Word) : Store := { addr := regAddr p r, value := v }

/-- The twelve stores of START, in order (R178). -/
def startStores (p : Params) : List Store := [
  { addr := BitVec.ofNat 32 p.BASEPTR_ADDR, value := BitVec.ofNat 32 p.FB_BASE },
  regStore p (.chReadAddr .ch0) (BitVec.ofNat 32 p.FB_BASE),
  regStore p (.chWriteAddr .ch0) (regAddr p .cgenTxf),
  regStore p (.chTransCount .ch0) (BitVec.ofNat 32 p.N),
  regStore p (.chCtrl .ch0) dataCtrl,
  regStore p (.chReadAddr .ch1) (BitVec.ofNat 32 p.BASEPTR_ADDR),
  regStore p (.chWriteAddr .ch1) (regAddr p (.chReadAddrTrig .ch0)),
  regStore p (.chTransCount .ch1) 1,
  regStore p .seqFlags 0x3,
  regStore p .seqCtrl 0x70,
  regStore p (.chCtrlTrig .ch1) controlCtrl,
  regStore p .seqCtrl 0x7]

/-- The two stores of STOP (R180). -/
def stopStores (p : Params) : List Store := [
  regStore p .chanAbort 0x3,
  regStore p .seqCtrl 0x0]

/-- The block is stopped: no unit enabled, no channel busy (R177). -/
def stopped (s : State) : Bool := s.smEn == 0 && !s.ch0.busy && !s.ch1.busy

/-- SYS.START (R177, R178): refused REF_STATE unless the block is stopped. -/
def execSysStart (s : State) : Host.Outcome State Fault Refusal :=
  guardOp (!halted s) <|
    if stopped s = false then refuse .state s
    else issueStores (startStores s.cfg) s

/-- SYS.STOP (R180). -/
def execSysStop (s : State) : Host.Outcome State Fault Refusal :=
  guardOp (!halted s) (issueStores (stopStores s.cfg) s)

end Sys2Proof.Machine
end

