-- ==== Sys2Proof/Machine/Pixel.lean ====
section
/-! DEFINITION. The address translator and the host pixel operations (42_framebuffer_addressing.md). A pseudo-operation performs
the first host operation of its expansion now and leaves its stores in `host.pending` (R90, R143, R145; log entry 15). -/

namespace Sys2Proof.Machine

/-- The stores of fill_all, in increasing word index (R145). -/
def fillStores (p : Params) (c : Nat) : List Store :=
  (List.range p.N).map fun k => { addr := fbAddr p k, value := tilingMask c }

/-- PX.XLATE (R136): returns (k, p, address) and changes nothing. -/
def execPxXlate (x y : Nat) (s : State) : Host.Outcome State Fault Refusal :=
  guardOp (!halted s) <|
    match xlate s.cfg x y with
    | .ok r => .next (withRet (.pixel r.k r.p r.addr) s)
    | .error f => .next (recordFault f s)

/-- PX.MASK (R142). -/
def execPxMask (c : Nat) (s : State) : Host.Outcome State Fault Refusal :=
  guardOp (!halted s) <|
    if c ≥ 8 then refuse .color s
    else .next (withRet (.word (tilingMask c)) s)

/-- PX.SET (R143): the read of the pixel's word, with the write of the merged word still to come. -/
def execPxSet (x y c : Nat) (s : State) : Host.Outcome State Fault Refusal :=
  guardOp (!halted s) <|
    if c ≥ 8 then refuse .color s
    else match xlate s.cfg x y with
      | .error f => .next (recordFault f s)
      | .ok r => match busRead s r.addr with
        | .error f => .next (recordFault f s)
        | .ok w => .next { s with host := { s.host with
            pending := { addr := r.addr, value := withPixel w r.p c } :: s.host.pending } }

/-- PX.GET (R144): one word read; the field is bound to the NAME. -/
def execPxGet (x y : Nat) (n : Name) (s : State) : Host.Outcome State Fault Refusal :=
  guardOp (!halted s) <|
    match xlate s.cfg x y with
    | .error f => .next (recordFault f s)
    | .ok r => match busRead s r.addr with
      | .error f => .next (recordFault f s)
      | .ok w => .next (bindResult n (pixelOf w r.p) s)

/-- PX.FILL (R145). -/
def execPxFill (c : Nat) (s : State) : Host.Outcome State Fault Refusal :=
  guardOp (!halted s) <|
    if c ≥ 8 then refuse .color s
    else issueStores (fillStores s.cfg c) s

end Sys2Proof.Machine
end

