-- ==== Sys2Proof/Machine/RegRead.lean ====
section
/-! DEFINITION. The register reads (43_host_interface.md section 2): each returns a word and changes nothing else (R153). -/

namespace Sys2Proof.Machine

/-- RD.SEQ_CTRL (R154). -/
def execRdSeqCtrl (s : State) : Host.Outcome State Fault Refusal :=
  guardOp (!halted s) (returnWord s (readSeqCtrl s))

/-- RD.SEQ_FLAGS (R155). -/
def execRdSeqFlags (s : State) : Host.Outcome State Fault Refusal :=
  guardOp (!halted s) (returnWord s (readSeqFlags s))

/-- RD.SEQ_FSTAT (R156). -/
def execRdSeqFstat (s : State) : Host.Outcome State Fault Refusal :=
  guardOp (!halted s) (returnWord s (readSeqFstat s))

/-- RD.CGEN_TXF (R157: FLT_ACCESS). -/
def execRdCgenTxf (s : State) : Host.Outcome State Fault Refusal :=
  guardOp (!halted s) (returnWord s (readCgenTxf s))

/-- RD.CH_READ_ADDR (R158). -/
def execRdChReadAddr (c : Chan) (s : State) : Host.Outcome State Fault Refusal :=
  guardOp (!halted s) (returnWord s (readChReadAddr c s))

/-- RD.CH_WRITE_ADDR (R159). -/
def execRdChWriteAddr (c : Chan) (s : State) : Host.Outcome State Fault Refusal :=
  guardOp (!halted s) (returnWord s (readChWriteAddr c s))

/-- RD.CH_TRANS_COUNT (R160). -/
def execRdChTransCount (c : Chan) (s : State) : Host.Outcome State Fault Refusal :=
  guardOp (!halted s) (returnWord s (readChTransCount c s))

/-- RD.CH_CTRL_TRIG (R161). -/
def execRdChCtrlTrig (c : Chan) (s : State) : Host.Outcome State Fault Refusal :=
  guardOp (!halted s) (returnWord s (readChCtrlTrig c s))

/-- RD.CH_CTRL (R161). -/
def execRdChCtrl (c : Chan) (s : State) : Host.Outcome State Fault Refusal :=
  guardOp (!halted s) (returnWord s (readChCtrl c s))

/-- RD.CH_READ_ADDR_TRIG (R162). -/
def execRdChReadAddrTrig (c : Chan) (s : State) : Host.Outcome State Fault Refusal :=
  guardOp (!halted s) (returnWord s (readChReadAddrTrig c s))

/-- RD.CH_TRANS_REMAIN (R163). -/
def execRdChTransRemain (c : Chan) (s : State) : Host.Outcome State Fault Refusal :=
  guardOp (!halted s) (returnWord s (readChTransRemain c s))

/-- RD.CHAN_ABORT (R164: FLT_ACCESS). -/
def execRdChanAbort (s : State) : Host.Outcome State Fault Refusal :=
  guardOp (!halted s) (returnWord s (readChanAbort s))

end Sys2Proof.Machine
end

