-- ==== Sys2Proof/Machine/RegWrite.lean ====
section
/-! DEFINITION. The register writes (43_host_interface.md section 3): each completes, or faults and changes nothing but the record
(R184). -/

namespace Sys2Proof.Machine

/-- WR.SEQ_CTRL (R165). -/
def execWrSeqCtrl (v : Word) (s : State) : Host.Outcome State Fault Refusal :=
  guardOp (!halted s) (commit s (writeSeqCtrl v s))

/-- WR.SEQ_FLAGS (R166). -/
def execWrSeqFlags (v : Word) (s : State) : Host.Outcome State Fault Refusal :=
  guardOp (!halted s) (commit s (writeSeqFlags v s))

/-- WR.SEQ_FSTAT (R167: FLT_ACCESS). -/
def execWrSeqFstat (v : Word) (s : State) : Host.Outcome State Fault Refusal :=
  guardOp (!halted s) (commit s (writeSeqFstat v s))

/-- WR.CGEN_TXF (R168). -/
def execWrCgenTxf (v : Word) (s : State) : Host.Outcome State Fault Refusal :=
  guardOp (!halted s) (commit s (writeCgenTxf v s))

/-- WR.CH_READ_ADDR (R169). -/
def execWrChReadAddr (c : Chan) (v : Word) (s : State) : Host.Outcome State Fault Refusal :=
  guardOp (!halted s) (commit s (writeChReadAddr c v s))

/-- WR.CH_WRITE_ADDR (R170). -/
def execWrChWriteAddr (c : Chan) (v : Word) (s : State) : Host.Outcome State Fault Refusal :=
  guardOp (!halted s) (commit s (writeChWriteAddr c v s))

/-- WR.CH_TRANS_COUNT (R171). -/
def execWrChTransCount (c : Chan) (v : Word) (s : State) : Host.Outcome State Fault Refusal :=
  guardOp (!halted s) (commit s (writeChTransCount c v s))

/-- WR.CH_CTRL_TRIG (R173). -/
def execWrChCtrlTrig (c : Chan) (v : Word) (s : State) : Host.Outcome State Fault Refusal :=
  guardOp (!halted s) (commit s (writeChCtrlTrig c v s))

/-- WR.CH_CTRL (R172). -/
def execWrChCtrl (c : Chan) (v : Word) (s : State) : Host.Outcome State Fault Refusal :=
  guardOp (!halted s) (commit s (writeChCtrl c v s))

/-- WR.CH_READ_ADDR_TRIG (R174). -/
def execWrChReadAddrTrig (c : Chan) (v : Word) (s : State) : Host.Outcome State Fault Refusal :=
  guardOp (!halted s) (commit s (writeChReadAddrTrig c v s))

/-- WR.CH_TRANS_REMAIN (R175: FLT_ACCESS). -/
def execWrChTransRemain (c : Chan) (v : Word) (s : State) : Host.Outcome State Fault Refusal :=
  guardOp (!halted s) (commit s (writeChTransRemain c v s))

/-- WR.CHAN_ABORT (R176). -/
def execWrChanAbort (v : Word) (s : State) : Host.Outcome State Fault Refusal :=
  guardOp (!halted s) (commit s (writeChanAbort v s))

end Sys2Proof.Machine
end

