-- ==== Sys2Proof/Machine/Vgen.lean ====
section
/-! DEFINITION. The vertical generator VGEN (40_timing_generators.md section 2): a hold, or the consumption of one line event. -/

namespace Sys2Proof.Machine

/-- VGEN consumes a line event in a phase: it is enabled, FLAG_A is 1 and it is in that phase (R98 to R102). -/
def vgenIn (ph : VPhase) (s : State) : Bool := !halted s && unitEnabled s 1 && s.flagA && decide (s.vgen.phase = ph)

/-- One line event that drives VSYNC to `level`: FLAG_A is consumed, and the last line of the phase loads the next phase's
count (R98 to R102). -/
def vgenEvent (level : Bool) (nxt : VPhase) (reload : Nat) (s : State) : State :=
  if s.vgen.cnt = 1 then
    { clearA s with vgen := { phase := nxt, cnt := BitVec.ofNat 32 reload, vsync := level } }
  else { clearA s with vgen := { s.vgen with cnt := s.vgen.cnt - 1, vsync := level } }

/-- V.HOLD (R97): no line event, nothing changes. -/
def execVHold (s : State) : Host.Outcome State Fault Refusal :=
  guardOp (!halted s && unitEnabled s 1 && !s.flagA) (.next s)

/-- V.VIS (R98): a visible line event raises FLAG_B. -/
def execVVis (s : State) : Host.Outcome State Fault Refusal :=
  guardOp (vgenIn .vis s) (.next (raiseB (vgenEvent true .fp s.cfg.V_FP s)))

/-- V.FP (R99). -/
def execVFp (s : State) : Host.Outcome State Fault Refusal :=
  guardOp (vgenIn .fp s) (.next (vgenEvent true .spl s.cfg.V_SPL s))

/-- V.SPL (R100): VSYNC low; the high sub-span is skipped where V_SPH = 0. -/
def execVSpl (s : State) : Host.Outcome State Fault Refusal :=
  guardOp (vgenIn .spl s) (.next
    (if s.cfg.V_SPH > 0 then vgenEvent false .sph s.cfg.V_SPH s else vgenEvent false .bp s.cfg.V_BP s))

/-- V.SPH (R101). -/
def execVSph (s : State) : Host.Outcome State Fault Refusal :=
  guardOp (vgenIn .sph s) (.next (vgenEvent true .bp s.cfg.V_BP s))

/-- V.BP (R102): the last line wraps to the top of the frame. -/
def execVBp (s : State) : Host.Outcome State Fault Refusal :=
  guardOp (vgenIn .bp s) (.next (vgenEvent true .vis s.cfg.V s))

end Sys2Proof.Machine
end

