-- ==== Sys2Proof/Machine/Dispatch.lean ====
section
/-! DEFINITION. exec: one arm for each operation, a direct call of its meaning. -/

namespace Sys2Proof.Machine

def exec (i : Instr) (s : State) : Host.Outcome State Fault Refusal :=
  match i with
  | .hostLdw a w n => Sys2Proof.Machine.execHostLdw a w n s
  | .hostStw a v w => Sys2Proof.Machine.execHostStw a v w s
  | .hAp => Sys2Proof.Machine.execHAp s
  | .hSp => Sys2Proof.Machine.execHSp s
  | .hBp => Sys2Proof.Machine.execHBp s
  | .vHold => Sys2Proof.Machine.execVHold s
  | .vVis => Sys2Proof.Machine.execVVis s
  | .vFp => Sys2Proof.Machine.execVFp s
  | .vSpl => Sys2Proof.Machine.execVSpl s
  | .vSph => Sys2Proof.Machine.execVSph s
  | .vBp => Sys2Proof.Machine.execVBp s
  | .cWait => Sys2Proof.Machine.execCWait s
  | .cTake => Sys2Proof.Machine.execCTake s
  | .cOut => Sys2Proof.Machine.execCOut s
  | .cStall => Sys2Proof.Machine.execCStall s
  | .cDwell => Sys2Proof.Machine.execCDwell s
  | .cBlank => Sys2Proof.Machine.execCBlank s
  | .dmaXfer c => Sys2Proof.Machine.execDmaXfer c s
  | .dmaTrigger c => Sys2Proof.Machine.execDmaTrigger c s
  | .dmaAbort c => Sys2Proof.Machine.execDmaAbort c s
  | .pxXlate x y => Sys2Proof.Machine.execPxXlate x y s
  | .pxMask col => Sys2Proof.Machine.execPxMask col s
  | .pxSet x y col => Sys2Proof.Machine.execPxSet x y col s
  | .pxGet x y n => Sys2Proof.Machine.execPxGet x y n s
  | .pxFill col => Sys2Proof.Machine.execPxFill col s
  | .sysStart => Sys2Proof.Machine.execSysStart s
  | .sysStop => Sys2Proof.Machine.execSysStop s
  | .rdSeqCtrl => Sys2Proof.Machine.execRdSeqCtrl s
  | .rdSeqFlags => Sys2Proof.Machine.execRdSeqFlags s
  | .rdSeqFstat => Sys2Proof.Machine.execRdSeqFstat s
  | .rdCgenTxf => Sys2Proof.Machine.execRdCgenTxf s
  | .rdChReadAddr c => Sys2Proof.Machine.execRdChReadAddr c s
  | .rdChWriteAddr c => Sys2Proof.Machine.execRdChWriteAddr c s
  | .rdChTransCount c => Sys2Proof.Machine.execRdChTransCount c s
  | .rdChCtrlTrig c => Sys2Proof.Machine.execRdChCtrlTrig c s
  | .rdChCtrl c => Sys2Proof.Machine.execRdChCtrl c s
  | .rdChReadAddrTrig c => Sys2Proof.Machine.execRdChReadAddrTrig c s
  | .rdChTransRemain c => Sys2Proof.Machine.execRdChTransRemain c s
  | .rdChanAbort => Sys2Proof.Machine.execRdChanAbort s
  | .wrSeqCtrl v => Sys2Proof.Machine.execWrSeqCtrl v s
  | .wrSeqFlags v => Sys2Proof.Machine.execWrSeqFlags v s
  | .wrSeqFstat v => Sys2Proof.Machine.execWrSeqFstat v s
  | .wrCgenTxf v => Sys2Proof.Machine.execWrCgenTxf v s
  | .wrChReadAddr c v => Sys2Proof.Machine.execWrChReadAddr c v s
  | .wrChWriteAddr c v => Sys2Proof.Machine.execWrChWriteAddr c v s
  | .wrChTransCount c v => Sys2Proof.Machine.execWrChTransCount c v s
  | .wrChCtrlTrig c v => Sys2Proof.Machine.execWrChCtrlTrig c v s
  | .wrChCtrl c v => Sys2Proof.Machine.execWrChCtrl c v s
  | .wrChReadAddrTrig c v => Sys2Proof.Machine.execWrChReadAddrTrig c v s
  | .wrChTransRemain c v => Sys2Proof.Machine.execWrChTransRemain c v s
  | .wrChanAbort v => Sys2Proof.Machine.execWrChanAbort v s

end Sys2Proof.Machine
end

