-- ==== Sys2Proof/Machine/Assembler.lean ====
section
/-! DEFINITION. Host programs (30_encoding.md section 7): from the text of R89 to lines, and from a line to the operation term or
bus access it stands for (R85, R90). Points of the text that R89 leaves open are in log entries 26
and 31 to 33. -/

namespace Sys2Proof.Machine

/-! ### From a line to a code -/

/-- The byte address ADDR stands for (R89). R67 gives FB[k] for k below N only, and R89 bounds neither k nor the sum: an address
of 2^32 or more is taken modulo 2^32. (DESIGN CHOICE, log entry 31.) -/
def addrOf (p : Params) : AddrExpr → Word
  | .num a => a
  | .reg r => regAddr p r
  | .fb k => fbAddr p k
  | .basePtr => BitVec.ofNat 32 p.BASEPTR_ADDR
  | .blkPlus o => BitVec.ofNat 32 (p.BLK_BASE + o)

/-- The word VALUE stands for (R89); a NAME not bound earlier stands for none. -/
def valueOf (p : Params) (names : List (Name × Word)) : ValueExpr → Except Name Word
  | .num v => .ok v
  | .name n => match lookupName names n with
    | some v => .ok v
    | none => .error n
  | .paramN => .ok (BitVec.ofNat 32 p.N)
  | .paramFbBase => .ok (BitVec.ofNat 32 p.FB_BASE)
  | .paramBaseptrAddr => .ok (BitVec.ofNat 32 p.BASEPTR_ADDR)
  | .paramBlkBase => .ok (BitVec.ofNat 32 p.BLK_BASE)
  | .blkPlus o => .ok (BitVec.ofNat 32 (p.BLK_BASE + o))

/-- The operation term, or the bus access, of a line (R85, R89). -/
def assemble (p : Params) (names : List (Name × Word)) : Line → Except Name Code
  | .ldw a n => .ok (.term { op := 0x00, a := addrOf p a, name := n })
  | .stw a v => match valueOf p names v with
    | .ok w => .ok (.term { op := 0x01, a := addrOf p a, v := w })
    | .error n => .error n
  | .setPixel x y c => .ok (.term { op := 0xA2, x := x, y := y, col := c })
  | .getPixel x y n => .ok (.term { op := 0xA3, x := x, y := y, name := n })
  | .fillAll c => .ok (.term { op := 0xA4, col := c })
  | .start => .ok (.term { op := 0xC0 })
  | .stop => .ok (.term { op := 0xC1 })
  | .term t => .ok (.term t)
  | .access b => .ok (.access b)

/-! ### From text to lines -/

/-- The tokens of a line. -/
inductive Token where
  | word (cs : List Char)
  | num (n : Nat)
  | comma
  | plus
  | arrow
  | lbracket
  | rbracket
  deriving DecidableEq, Repr

/-- The value of a digit in a base, if it is one. -/
def digitValue (base : Nat) (c : Char) : Option Nat :=
  let n := c.toNat
  let d := if 48 ≤ n ∧ n ≤ 57 then n - 48 else if 97 ≤ n ∧ n ≤ 102 then n - 87 else if 65 ≤ n ∧ n ≤ 70 then n - 55 else base
  if d < base then some d else none

/-- The number a run of digits writes, after `acc`. -/
def digits (base : Nat) : List Char → Nat → Option Nat
  | [], acc => some acc
  | c :: cs, acc => match digitValue base c with
    | some d => digits base cs (acc * base + d)
    | none => none

/-- A numeral is decimal, or hexadecimal after `0x` (R89). -/
def numeral : List Char → Option Nat
  | '0' :: 'x' :: c :: cs => digits 16 (c :: cs) 0
  | cs => digits 10 cs 0

/-- Characters of a NAME, a register name or a numeral. -/
def wordChar (c : Char) : Bool := c.isAlphanum || c == '_' || c == '.'

/-- The token of a run of word characters, read in reverse; a run that begins with a digit is a numeral. -/
def wordToken (acc : List Char) : Option (List Token) :=
  match acc.reverse with
  | [] => some []
  | c :: cs => if c.isDigit then (numeral (c :: cs)).map (fun n => [.num n]) else some [.word (c :: cs)]

/-- The tokens of a line after the run `acc`; `;` starts a comment (R89). -/
def tokens : List Char → List Char → Option (List Token)
  | [], acc => wordToken acc
  | ';' :: _, acc => wordToken acc
  | '-' :: '>' :: cs, acc => do return (← wordToken acc) ++ .arrow :: (← tokens cs [])
  | ',' :: cs, acc => do return (← wordToken acc) ++ .comma :: (← tokens cs [])
  | '+' :: cs, acc => do return (← wordToken acc) ++ .plus :: (← tokens cs [])
  | '[' :: cs, acc => do return (← wordToken acc) ++ .lbracket :: (← tokens cs [])
  | ']' :: cs, acc => do return (← wordToken acc) ++ .rbracket :: (← tokens cs [])
  | c :: cs, acc =>
    if wordChar c then tokens cs (c :: acc)
    else if c == ' ' || c == '\t' then do return (← wordToken acc) ++ (← tokens cs [])
    else none

/-- The register names of R89, without their channel. -/
def chanRegNames : List (List Char × (Chan → Reg)) := [
  (".READ_ADDR".toList, .chReadAddr), (".WRITE_ADDR".toList, .chWriteAddr), (".TRANS_COUNT".toList, .chTransCount),
  (".CTRL_TRIG".toList, .chCtrlTrig), (".CTRL".toList, .chCtrl), (".READ_ADDR_TRIG".toList, .chReadAddrTrig),
  (".TRANS_REMAIN".toList, .chTransRemain)]

/-- The register names of R89 (`CHc.` with c in 0, 1). -/
def regNames : List (List Char × Reg) :=
  [("SEQ_CTRL".toList, .seqCtrl), ("SEQ_FLAGS".toList, .seqFlags), ("SEQ_FSTAT".toList, .seqFstat),
   ("CGEN_TXF".toList, .cgenTxf), ("CHAN_ABORT".toList, .chanAbort)] ++
  chanRegNames.map (fun r => ("CH0".toList ++ r.1, r.2 .ch0)) ++
  chanRegNames.map (fun r => ("CH1".toList ++ r.1, r.2 .ch1))

/-- A numeral as a word: one below 2^32. -/
def wordNumeral (n : Nat) : Option Word := if n < 2 ^ 32 then some (BitVec.ofNat 32 n) else none

/-- ADDR at the head of a line's tokens, and the tokens after it (R89). -/
def parseAddr : List Token → Option (AddrExpr × List Token)
  | .num n :: ts => (wordNumeral n).map (fun w => (.num w, ts))
  | .word cs :: .lbracket :: .num k :: .rbracket :: ts => if cs = "FB".toList then some (.fb k, ts) else none
  | .word cs :: .plus :: .num o :: ts => if cs = "BLK_BASE".toList then some (.blkPlus o, ts) else none
  | .word cs :: ts =>
    if cs = "BASEPTR".toList then some (.basePtr, ts)
    else ((regNames.find? (fun r => r.1 == cs)).map (fun r => (.reg r.2, ts)))
  | _ => none

/-- VALUE: all that is left of a line's tokens (R89). R89 does not say which of a NAME and a parameter spelled alike VALUE is: a word
spelled like a parameter is the parameter. (DESIGN CHOICE, log entry 32.) -/
def parseValue : List Token → Option ValueExpr
  | [.num n] => (wordNumeral n).map .num
  | [.word cs, .plus, .num o] => if cs = "BLK_BASE".toList then some (.blkPlus o) else none
  | [.word cs] =>
    some (if cs = "N".toList then .paramN
      else if cs = "FB_BASE".toList then .paramFbBase
      else if cs = "BASEPTR_ADDR".toList then .paramBaseptrAddr
      else if cs = "BLK_BASE".toList then .paramBlkBase
      else .name cs)
  | _ => none

/-- A line of `ldw` after its keyword. -/
def parseLdw (ts : List Token) : Option Line :=
  match parseAddr ts with
  | some (a, [.arrow, .word n]) => some (.ldw a n)
  | _ => none

/-- A line of `stw` after its keyword. -/
def parseStw (ts : List Token) : Option Line :=
  match parseAddr ts with
  | some (a, .comma :: rest) => (parseValue rest).map (.stw a)
  | _ => none

/-- The operands of the other operations after their keyword (R89). -/
def parseOperands (key : List Char) : List Token → Option Line
  | [.num x, .comma, .num y, .comma, .num c] => if key = "set_pixel".toList then some (.setPixel x y c) else none
  | [.num x, .comma, .num y, .arrow, .word n] => if key = "get_pixel".toList then some (.getPixel x y n) else none
  | [.num c] => if key = "fill_all".toList then some (.fillAll c) else none
  | [] => if key = "start".toList then some .start else if key = "stop".toList then some .stop else none
  | _ => none

/-- One line of text: a syntax error, an empty or comment line, or an operation (R89). -/
def parseLine (text : List Char) : Option (Option Line) :=
  match tokens text [] with
  | some [] => some none
  | some (.word key :: ts) =>
    if key = "ldw".toList then (parseLdw ts).map some
    else if key = "stw".toList then (parseStw ts).map some
    else (parseOperands key ts).map some
  | _ => none

/-- The lines of a text. -/
def textLines : List Char → List Char → List (List Char)
  | [], acc => [acc.reverse]
  | c :: cs, acc => if c = '\n' then acc.reverse :: textLines cs [] else textLines cs (c :: acc)

/-- The operations of a list of lines, if every line parses. -/
def parseLines : List (List Char) → Option (List Line)
  | [] => some []
  | l :: ls => match parseLine l, parseLines ls with
    | some (some x), some xs => some (x :: xs)
    | some none, some xs => some xs
    | _, _ => none

/-- A host program from its text: one operation a line (R89). -/
def parseProgram (text : List Char) : Option (List Line) := parseLines (textLines text [])

end Sys2Proof.Machine
end

