-- ==== Sys2Proof/Machine/Sched.lean ====
section
/-! DEFINITION. What each agent would do next, and which agent does it: selection of a unit's operation by its state (R14, R91),
the transfer condition (R118), the host program (R86, R89, R152), and the scheduler's choice (R13). -/

namespace Sys2Proof.Machine

/-- What an agent issues: an operation with the state it runs from, a refusal or a fault of the host term itself, or a line
whose VALUE is a NAME not bound. -/
inductive Issue where
  | run (i : Instr) (s : State)
  | refuse (r : RefusalRec) (s : State)
  | fault (f : FaultRec) (s : State)
  | unbound (n : Name)
  deriving DecidableEq, Repr

/-- The operation HGEN's phase selects (R27, R93 to R95). -/
def hgenOp (s : State) : Instr :=
  match s.hgen.phase with
  | .ap => .hAp
  | .sp => .hSp
  | .bp => .hBp

/-- The operation VGEN's state selects (R27, R97 to R102). -/
def vgenOp (s : State) : Instr :=
  if s.flagA = false then .vHold
  else match s.vgen.phase with
    | .vis => .vVis
    | .fp => .vFp
    | .spl => .vSpl
    | .sph => .vSph
    | .bp => .vBp

/-- The operation CGEN's state selects (R27, R104 to R109). -/
def cgenOp (s : State) : Instr :=
  match s.cgen.phase with
  | .waitb => if s.flagB then .cTake else .cWait
  | .pixel => if canDrive s then .cOut else .cStall
  | .dwell => .cDwell
  | .blank => .cBlank

/-- The bus address of an access to the register window (R58, R84). -/
def accessAddr (p : Params) (b : BusAccess) : Word := BitVec.ofNat 32 (p.BLK_BASE + b.offset.toNat)

/-- What a term issues: one of an operation a host program may not issue, or with a reserved code, is refused (R86, R152). -/
def issueTerm (t : Term) (s : State) : Issue :=
  match decode (.term t) with
  | .ok i => if i.hostIssuable then .run i s else .refuse .opcode s
  | .error _ => .refuse .opcode s

/-- What an access to the register window issues, in the order of R59 and R190: a misaligned one faults first (BLK_BASE is a multiple
of 4, CFG5), then the offset decodes to a register operation or is unmapped (R84). (The address recorded: log entry 17.) -/
def issueAccess (b : BusAccess) (s : State) : Issue :=
  if b.offset.toNat % 4 ≠ 0 then .fault (.misaligned (accessAddr s.cfg b)) s
  else match decode (.access b) with
    | .ok i => .run i s
    | .error _ => .fault (.unmapped (accessAddr s.cfg b)) s

/-- What a code issues. -/
def issueCode (c : Code) (s : State) : Issue :=
  match c with
  | .term t => issueTerm t s
  | .access b => issueAccess b s

/-- What a host program line issues. -/
def issueLine (l : Line) (s : State) : Issue :=
  match assemble s.cfg s.host.names l with
  | .ok c => issueCode c s
  | .error n => .unbound n

/-- What HOST issues: the next store of the pseudo-operation in progress, else the next line of its program (R90, R152). -/
def hostIssue (s : State) : Option Issue :=
  match s.host.pending with
  | st :: rest => some (.run (.hostStw st.addr st.value 4) { s with host := { s.host with pending := rest } })
  | [] => match s.host.prog with
    | l :: rest => some (issueLine l { s with host := { s.host with prog := rest } })
    | [] => none

/-- What an agent issues, if it has an enabled operation (R14, R91, R118). -/
def agentIssue (a : Agent) (s : State) : Option Issue :=
  match a with
  | .hgen => if unitEnabled s 0 then some (.run (hgenOp s) s) else none
  | .vgen => if unitEnabled s 1 then some (.run (vgenOp s) s) else none
  | .cgen => if unitEnabled s 2 then some (.run (cgenOp s) s) else none
  | .dma c => if xferReady c s then some (.run (.dmaXfer c) s) else none
  | .host => hostIssue s

/-- An agent has an enabled operation: none has once a fault or refusal is recorded (R14, R186). -/
def agentEnabled (a : Agent) (s : State) : Bool := !halted s && (agentIssue a s).isSome

/-- The agents (R4). -/
def agents : List Agent := [.hgen, .vgen, .cgen, .dma .ch0, .dma .ch1, .host]

/-- The agents, beginning with one of them. -/
def rotation (a : Agent) : List Agent := agents.dropWhile (fun b => b != a) ++ agents

/-- The scheduler's choice where the environment's script makes none: the only enabled agent, or the first enabled one from
the free value on, so that every enabled agent may be the one (R13; log entry 3). -/
def freeChoice (s : State) : Option Agent :=
  match agents.filter (fun a => agentEnabled a s) with
  | [] => none
  | [a] => some a
  | _ => (rotation (Config.freeAgent s.tick)).find? (fun a => agentEnabled a s)

/-- The agent that takes the next step, and the script after it: the first enabled agent of the script (R19: "each only if
enabled"), else the free choice. -/
def choose (s : State) : Option (Agent × List Agent) :=
  match s.sched.dropWhile (fun a => !agentEnabled a s) with
  | a :: rest => some (a, rest)
  | [] => (freeChoice s).map (fun a => (a, []))

/-- No agent has an enabled operation: the state is quiescent (R186, R218). -/
def quiescent (s : State) : Bool := agents.all (fun a => !agentEnabled a s)

end Sys2Proof.Machine
end

