-- ==== Sys2Proof/Machine/Perform.lean ====
section
/-! DEFINITION. Performing what an agent issues, and placing an operation so that the next step runs it. -/

namespace Sys2Proof.Machine

/-- Perform what an agent issued (R183). -/
def perform : Issue → Host.Outcome State Fault Refusal
  | .run i s => exec i s
  | .refuse r s => refuse r s
  | .fault f s => .next (recordFault f s)
  | .unbound n => .refused (.unboundName n)

/-- One step of a state in which nothing is recorded: the chosen agent performs what it issues (R13). -/
def runChosen (s : State) : Host.Outcome State Fault Refusal :=
  match choose s with
  | none => .fault .runEnded
  | some (a, rest) => match agentIssue a { s with sched := rest } with
    | some x => perform x
    | none => .fault .runEnded

/-- Load one line as the host program and let HOST take the next step (log entries 2 and 29). -/
def placeLine (l : Line) (s : State) : State :=
  { s with host := { s.host with prog := [l], pending := [] }, sched := [.host] }

/-- Load one code as the host program's only line. -/
def placeCode (c : Code) (s : State) : State :=
  match c with
  | .term t => placeLine (.term t) s
  | .access b => placeLine (.access b) s

/-- Enable HGEN in a phase and let it take the next step. -/
def placeHgen (ph : HPhase) (s : State) : State :=
  { s with smEn := s.smEn ||| 1, hgen := { s.hgen with phase := ph }, sched := [.hgen] }

/-- Enable VGEN in a phase with FLAG_A as given and let it take the next step. -/
def placeVgen (flag : Bool) (ph : VPhase) (s : State) : State :=
  { s with smEn := s.smEn ||| 2, flagA := flag, vgen := { s.vgen with phase := ph }, sched := [.vgen] }

/-- Enable CGEN in a phase and let it take the next step. -/
def placeCgen (ph : CPhase) (s : State) : State :=
  { s with smEn := s.smEn ||| 4, cgen := { s.cgen with phase := ph }, sched := [.cgen] }

/-- Give the FIFO a word if it holds none. -/
def placeFifoWord (s : State) : State :=
  { s with cgen := { s.cgen with fifo := if s.cgen.fifo = [] then [0] else s.cgen.fifo } }

/-- Empty the FIFO and the shift register. -/
def placeStarved (s : State) : State := { s with cgen := { s.cgen with fifo := [], osrn := 0 } }

/-- Give channel c a run of one unpaced transfer from and to the first memory word, and let it take the next step. -/
def placeXfer (c : Chan) (s : State) : State :=
  let k := chan s c
  { setChan c { k with ctrl := { k.ctrl with en := true, treqSel := 0x3F }
                       remain := 1
                       busy := true
                       readAddr := BitVec.ofNat 32 s.cfg.MEM_BASE
                       writeAddr := BitVec.ofNat 32 s.cfg.MEM_BASE } s with sched := [.dma c] }

/-- A register write that performs exactly an internal operation of channel c (R86): the write of the channel's own READ_ADDR
to its READ_ADDR_TRIG only triggers it (R174), the write of the channel's bit to CHAN_ABORT only aborts it (R176). -/
def placeTrigger (c : Chan) (s : State) : State :=
  placeLine (.access { offset := regOffset (.chReadAddrTrig c), dir := .write, data := (chan s c).readAddr }) s

/-- See `placeTrigger`. -/
def placeAbort (c : Chan) (s : State) : State :=
  placeLine (.access { offset := regOffset .chanAbort, dir := .write, data := (1 : Word) <<< c.toNat }) s

/-- Place an operation so that the next step runs it: a host operation as the program's next line, a generator's or a channel's
step by the state that selects it, an internal operation by the register write that performs it (log entry 29). -/
def placeInstr (i : Instr) (s : State) : State :=
  match i with
  | .hAp => placeHgen .ap s
  | .hSp => placeHgen .sp s
  | .hBp => placeHgen .bp s
  | .vHold => placeVgen false s.vgen.phase s
  | .vVis => placeVgen true .vis s
  | .vFp => placeVgen true .fp s
  | .vSpl => placeVgen true .spl s
  | .vSph => placeVgen true .sph s
  | .vBp => placeVgen true .bp s
  | .cWait => { placeCgen .waitb s with flagB := false }
  | .cTake => { placeCgen .waitb s with flagB := true }
  | .cOut => placeCgen .pixel (placeFifoWord s)
  | .cStall => placeCgen .pixel (placeStarved s)
  | .cDwell => placeCgen .dwell s
  | .cBlank => placeCgen .blank s
  | .dmaXfer c => placeXfer c s
  | .dmaTrigger c => placeTrigger c s
  | .dmaAbort c => placeAbort c s
  | .hostLdw _ _ _ | .hostStw _ _ _ => placeCode (encode i) s
  | .pxXlate _ _ | .pxMask _ | .pxSet _ _ _ | .pxGet _ _ _ | .pxFill _ | .sysStart | .sysStop => placeCode (encode i) s
  | .rdSeqCtrl | .rdSeqFlags | .rdSeqFstat | .rdCgenTxf | .rdChReadAddr _ | .rdChWriteAddr _ => placeCode (encode i) s
  | .rdChTransCount _ | .rdChCtrlTrig _ | .rdChCtrl _ | .rdChReadAddrTrig _ => placeCode (encode i) s
  | .rdChTransRemain _ | .rdChanAbort => placeCode (encode i) s
  | .wrSeqCtrl _ | .wrSeqFlags _ | .wrSeqFstat _ | .wrCgenTxf _ | .wrChReadAddr _ _ => placeCode (encode i) s
  | .wrChWriteAddr _ _ | .wrChTransCount _ _ | .wrChCtrlTrig _ _ | .wrChCtrl _ _ => placeCode (encode i) s
  | .wrChReadAddrTrig _ _ | .wrChTransRemain _ _ | .wrChanAbort _ => placeCode (encode i) s

/-- Place a word numbered as the opcode table numbers it: the operation it decodes to, or, where it decodes to none, the
code itself as the next host line. -/
def placeWord (nbits w : Nat) (s : State) : State :=
  match decodeTableWord nbits w, tableCode nbits w with
  | some i, _ => placeInstr i s
  | none, some c => placeCode c s
  | none, none => s

end Sys2Proof.Machine
end

