-- ==== Sys2Proof/Machine/Step.lean ====
section
/-! DEFINITION. One step of the machine (R13, R186): from a state whose FAULT or REFUSED is recorded nothing runs; else the chosen
agent performs one operation. -/

namespace Sys2Proof.Machine

/-- One step. -/
def step (s : State) : Host.Outcome State Fault Refusal :=
  match s.faultRec with
  | some f => .fault (.halted f)
  | none => match s.refusedRec with
    | some r => .refused (.halted r)
    | none => runChosen { s with tick := s.tick + 1 }

/-- The state with the operation of an opcode-table word placed where the next step takes it (log entries 2 and 29). -/
def State.withFetchWord (s : State) (nbits w : Nat) : State := placeWord nbits w s

end Sys2Proof.Machine
end

