-- ==== Sys2Proof/Machine/Ports.lean ====
section
/-! DEFINITION. The output ports (R5, R113): each shows its register's current value at every instant. -/

namespace Sys2Proof.Machine

/-- The HSYNC port (R5). -/
def portHSync (s : State) : Bool := s.hgen.hsync

/-- The VSYNC port (R5). -/
def portVSync (s : State) : Bool := s.vgen.vsync

/-- The port COLOR[i] (R5, R113: COLOR[i] = COLOR_OUT[i]). -/
def portColor (s : State) (i : Nat) : Bool := s.cgen.color.getLsbD i

/-- A gun of the display is driven: some COLOR bit that PIN_MAP gives it is 1 (R9, R79). -/
def gunDriven (s : State) (g : Gun) : Bool :=
  (s.cfg.PIN_MAP.bit0 == g && portColor s 0) || (s.cfg.PIN_MAP.bit1 == g && portColor s 1) ||
  (s.cfg.PIN_MAP.bit2 == g && portColor s 2)

end Sys2Proof.Machine
end

