-- ==== Sys2Proof/Machine/Timed.lean ====
section
/-! DEFINITION. The optional timed schedule (R19): in tick t HGEN, VGEN, CGEN, DMA0 and DMA1 in that order, each if its divisor
divides t and it is enabled. A timed run is a run whose script is such a list (`choose` passes over an agent that is not
enabled at its place). -/

namespace Sys2Proof.Machine

/-- The agents one base clock tick schedules (R19). D4 takes each divisor to be at least 1 and no clause of CFG says so: with a divisor
of 0 the unit is scheduled at tick 0 only. (DESIGN CHOICE, log entry 30.) -/
def tickAgents (p : Params) (t : Nat) : List Agent :=
  (if t % p.D_H = 0 then [.hgen] else []) ++ (if t % p.D_V = 0 then [.vgen] else []) ++
  (if t % p.D_C = 0 then [.cgen] else []) ++ (if t % p.D_DMA = 0 then [.dma .ch0, .dma .ch1] else [])

/-- The script of n ticks from tick t on (R19). -/
def timedScript (p : Params) (t : Nat) : Nat → List Agent
  | 0 => []
  | n + 1 => tickAgents p t ++ timedScript p (t + 1) n

/-- A state with the environment's script set to n ticks from tick t on; operations of HOST stand between ticks as the claim
states (R19). -/
def withTimedScript (t n : Nat) (s : State) : State := { s with sched := timedScript s.cfg t n }

end Sys2Proof.Machine
end

