-- ==== Sys2Proof/Machine/Run.lean ====
section
/-! DEFINITION. Runs: one operation of a named agent, a run as the list of agents that take its steps (R13), line events (R103), and
the observation points of a run that does not end (R218). -/

namespace Sys2Proof.Machine

/-- One operation of agent a, where it has an enabled one (R13, R14). -/
def agentStep (a : Agent) (s : State) : Host.Outcome State Fault Refusal :=
  if agentEnabled a s = true then
    match agentIssue a s with
    | some x => perform x
    | none => .refused .notEnabled
  else .refused .notEnabled

/-- The state a run reaches: each agent of the list takes one step, in order; none if one of them has no enabled operation or
its operation answers no next state (R13). -/
def runAgents : List Agent → State → Option State
  | [], s => some s
  | a :: as, s => match agentStep a s with
    | .next t => runAgents as t
    | .fault _ => none
    | .refused _ => none

/-- What the agents of a run issue, step by step: an operation, or a refusal or a fault recorded at the issue itself. -/
def issued : List Agent → State → List Issue
  | [], _ => []
  | a :: as, s => match agentIssue a s, agentStep a s with
    | some x, .next t => x :: issued as t
    | _, _ => []

/-- The operation of an issue, with the state it is performed in; a step that only records a refusal or a fault performs none. -/
def issuedOp : Issue → Option (Instr × State)
  | .run i s => some (i, s)
  | .refuse _ _ => none
  | .fault _ _ => none
  | .unbound _ => none

/-- The operations a run performs, each with the state it is performed in. -/
def performedOps (run : List Agent) (s : State) : List (Instr × State) := (issued run s).filterMap issuedOp

/-- The last step of a run is C.BLANK. -/
def endsWithBlank (run : List Agent) (s : State) : Bool :=
  decide (((issued run s).getLast?.bind issuedOp).map (·.1) = some .cBlank)

/-- The count of C.BLANK operations since the last START, after a list of operations (R218); in a list with no START, since its
beginning, a case R218 does not define. (DESIGN CHOICE, log entry 34.) -/
def blanksSinceStart : List Instr → Nat → Nat
  | [], n => n
  | .cBlank :: is, n => blanksSinceStart is (n + 1)
  | .sysStart :: is, _ => blanksSinceStart is 0
  | _ :: is, n => blanksSinceStart is n

/-- The state t is the observation point OBS(K) of the run: the run's last step is C.BLANK, the K-th since the last START, or, where the
run given has no START, since its first state (R218; log entry 34). A state with a fault or a refusal recorded is none (R186). -/
def isObs (k : Nat) (run : List Agent) (s t : State) : Bool :=
  decide (runAgents run s = some t) && !halted t && endsWithBlank run s &&
  decide (blanksSinceStart ((performedOps run s).map (·.1)) 0 = k)

/-- n line events: before each, FLAG_A is set, and VGEN takes one step, which consumes it (R103). -/
def lineEvents : Nat → State → Option State
  | 0, s => some s
  | n + 1, s => match agentStep .vgen (raiseA s) with
    | .next t => lineEvents n t
    | .fault _ => none
    | .refused _ => none

/-- The m-th word CGEN loads into its shift register from a state on: the latch first, then the FIFO's words (R111). -/
def displayedWord (g : CGen) : Nat → Word
  | 0 => g.next
  | m + 1 => g.fifo.getD m 0

end Sys2Proof.Machine
end

