-- ==== Sys2Proof/Safety.lean ====
section
/-! DEFINITION. What counts as a safe state and a safe run, in the terms claims use: the invariants of the block, the loop
invariant of the DMA (R130), the run premises of R213, and fairness (R16). -/

namespace Sys2Proof.Machine

/-- Neither a fault nor a refusal is recorded (R186). -/
def Clean (s : State) : Prop := s.faultRec = none ∧ s.refusedRec = none

/-- R36: BUSY = 1 exactly where REMAIN is at least 1. -/
def ChannelOk (k : Channel) : Prop := k.busy = true ↔ k.remain ≠ 0

/-- The FIFO holds at most F words (R34). -/
def FifoOk (s : State) : Prop := s.cgen.fifo.length ≤ s.cfg.F

/-- H_CNT and V_CNT are at least 1 (R22, R23). -/
def CountersOk (s : State) : Prop := s.hgen.cnt ≠ 0 ∧ s.vgen.cnt ≠ 0

/-- Memory is in canonical form and lists only addresses of the memory region (R57, R60). -/
def MemOk (s : State) : Prop :=
  memWf s.mem = true ∧ ∀ c ∈ s.mem, s.cfg.MEM_BASE ≤ c.1 ∧ c.1 < s.cfg.MEM_BASE + s.cfg.MEM_SIZE

/-- CGEN's line accounting (R24, R106, R108, R110): the pixels left in C_OSR are the pixels of the line left modulo P, a line being
driven has a pixel or a dwell cycle left, and between lines nothing is left. -/
def CgenOk (g : CGen) : Prop :=
  g.osrn.toNat = g.px.toNat % pixelsPerWord ∧
  match g.phase with
  | .waitb => g.px = 0 ∧ g.dw = 0
  | .pixel => g.px ≠ 0 ∧ g.dw = 0
  | .dwell => g.dw ≠ 0
  | .blank => g.px = 0 ∧ g.dw = 0

/-- The invariant of the block. -/
structure BlockInv (s : State) : Prop where
  cfg : s.cfg.cfgOk = true
  mem : MemOk s
  fifo : FifoOk s
  counters : CountersOk s
  cgen : CgenOk s.cgen
  ch0 : ChannelOk s.ch0
  ch1 : ChannelOk s.ch1

/-- The data channel's configuration, but for its moving read address (R128). -/
def DataConfigured (s : State) : Prop :=
  s.ch0.writeAddr = regAddr s.cfg .cgenTxf ∧ s.ch0.transCount = BitVec.ofNat 32 s.cfg.N ∧ s.ch0.ctrl = ctrlOfWord dataCtrl

/-- The control channel's configuration (R129). -/
def ControlConfigured (s : State) : Prop :=
  s.ch1.readAddr = BitVec.ofNat 32 s.cfg.BASEPTR_ADDR ∧ s.ch1.writeAddr = regAddr s.cfg (.chReadAddrTrig .ch0) ∧
  s.ch1.transCount = 1 ∧ s.ch1.ctrl = ctrlOfWord controlCtrl

/-- The base-pointer word holds FB_BASE (R68). -/
def BasePtrOk (s : State) : Prop := memRead s.mem s.cfg.BASEPTR_ADDR = BitVec.ofNat 32 s.cfg.FB_BASE

/-- Arming (R130): the control channel is busy with its one transfer. -/
def Arming (s : State) : Prop := s.ch1.busy = true ∧ s.ch1.remain = 1 ∧ s.ch0.busy = false ∧ s.ch0.remain = 0

/-- Streaming (R130, R131): the data channel is busy, 1 <= REMAIN <= N, and it reads framebuffer word N - REMAIN next. -/
def Streaming (s : State) : Prop :=
  s.ch0.busy = true ∧ s.ch1.busy = false ∧ s.ch1.remain = 0 ∧ 1 ≤ s.ch0.remain.toNat ∧ s.ch0.remain.toNat ≤ s.cfg.N ∧
  s.ch0.readAddr = fbAddr s.cfg (s.cfg.N - s.ch0.remain.toNat)

/-- The loop invariant (R130). -/
structure LoopInv (s : State) : Prop where
  cfg : s.cfg.cfgOk = true
  fifo : FifoOk s
  data : DataConfigured s
  control : ControlConfigured s
  base : BasePtrOk s
  phase : Arming s ∨ Streaming s

/-- A store that R130 allows the host while the loop runs: to memory other than the base-pointer word, or to a register that is no
channel register. -/
def loopSafeStore (p : Params) (a : Word) : Bool :=
  if inWindow p a then
    match regAt (windowOffset p a) with
    | some .seqCtrl | some .seqFlags | some .seqFstat | some .cgenTxf => true
    | some (.chTransRemain _) | none => true
    | some _ => false
  else a != BitVec.ofNat 32 p.BASEPTR_ADDR

/-- An operation that R130 allows while the loop runs: every step of a generator or a channel, every read, every pixel operation, and
the stores above; not a write to a channel register or CHAN_ABORT, a stop, or an internal operation taken by itself. -/
def loopSafe (p : Params) : Instr → Bool
  | .hostStw a _ _ => loopSafeStore p a
  | .sysStop => false
  | .dmaTrigger _ | .dmaAbort _ => false
  | .wrChReadAddr _ _ | .wrChWriteAddr _ _ | .wrChTransCount _ _ | .wrChCtrlTrig _ _ | .wrChCtrl _ _ => false
  | .wrChReadAddrTrig _ _ | .wrChanAbort _ => false
  | .hostLdw _ _ _ => true
  | .hAp | .hSp | .hBp | .vHold | .vVis | .vFp | .vSpl | .vSph | .vBp => true
  | .cWait | .cTake | .cOut | .cStall | .cDwell | .cBlank | .dmaXfer _ => true
  | .pxXlate _ _ | .pxMask _ | .pxSet _ _ _ | .pxGet _ _ _ | .pxFill _ | .sysStart => true
  | .rdSeqCtrl | .rdSeqFlags | .rdSeqFstat | .rdCgenTxf | .rdChReadAddr _ | .rdChWriteAddr _ => true
  | .rdChTransCount _ | .rdChCtrlTrig _ | .rdChCtrl _ | .rdChReadAddrTrig _ | .rdChTransRemain _ | .rdChanAbort => true
  | .wrSeqCtrl _ | .wrSeqFlags _ | .wrSeqFstat _ | .wrCgenTxf _ | .wrChTransRemain _ _ => true

/-- NO_LOST_A is broken by an operation: H.BP sets FLAG_A while it is 1 (R213). -/
def losesA (i : Instr) (s : State) : Bool := decide (i = .hBp) && decide (s.hgen.cnt = 1) && s.flagA

/-- NO_LOST_B is broken by an operation: V.VIS sets FLAG_B while it is 1 (R213). -/
def losesB (i : Instr) (s : State) : Bool := decide (i = .vVis) && s.flagB

/-- LINE_FITS is broken by an operation: V.VIS finds a CGEN line that has not reached C.BLANK (R213). -/
def overrunsLine (i : Instr) (s : State) : Bool := decide (i = .vVis) && decide (s.cgen.phase ≠ .waitb)

/-- NO_STARVE: of these operations, no C.STALL is performed after START (R213); `started` says whether START comes before them all. (From
START's issue until its last write CGEN is disabled, so that no C.STALL falls between the two.) -/
def noStarve (started : Bool) : List Instr → Bool
  | [] => true
  | .sysStart :: is => noStarve true is
  | .cStall :: is => !started && noStarve started is
  | _ :: is => noStarve started is

/-- The four premises of R213 hold along a run; `started` says whether START was performed before it, so that a run can be given from
reset or from a later state. -/
def premisesHold (started : Bool) (run : List Agent) (s : State) : Bool :=
  ((performedOps run s).all fun o => !losesA o.1 o.2 && !losesB o.1 o.2 && !overrunsLine o.1 o.2) &&
  noStarve started ((performedOps run s).map (·.1))

/-- An infinite sequence of states is a run: each state comes from the one before by a step of the agent named (R13). The step count
and the script are the model's own fields; no operation reads the script, so a run may set it. -/
def InfiniteRun (state : Nat → State) (taken : Nat → Agent) : Prop :=
  ∀ n, ∃ sch, agentStep (taken n) { state n with tick := (state n).tick + 1, sched := sch } = .next (state (n + 1))

/-- A sequence of states and of the agents that step is weakly fair: an agent whose operation stays enabled from some point on takes
a step after it (R16). -/
def WeaklyFair (state : Nat → State) (taken : Nat → Agent) : Prop :=
  ∀ a n, (∀ m, n ≤ m → agentEnabled a { state m with tick := (state m).tick + 1 } = true) → ∃ m, n ≤ m ∧ taken m = a

/-- The infinite runs the spec admits: those weakly fair to every agent (R16). -/
structure AdmittedRun (state : Nat → State) (taken : Nat → Agent) : Prop where
  run : InfiniteRun state taken
  fair : WeaklyFair state taken

/-- The infinite runs `step` makes; one is admitted if the agents it chooses are fair (R16; log entry 20). -/
def StepRun (state : Nat → State) (taken : Nat → Agent) : Prop :=
  ∀ n, step (state n) = .next (state (n + 1)) ∧
    (choose { state n with tick := (state n).tick + 1 }).map (·.1) = some (taken n)

/-- The run has ended (R218): no agent has an enabled operation, because a fault or a refusal is recorded, wherever the host program
stands, or because the host program is done. No step follows, so the first such state is the only one. Agents are asked in the state
with the step counted, as in `step` and in runs. (DESIGN CHOICE, log entry 37: a program that ends without `stop` with nothing enabled
has ended too, by R218's definition, although R218 and D47 also say that such a run does not end.) (DESIGN CHOICE, log entry 35: where all that is left is a running channel whose
TREQ_SEL R117 gives no signal for, the run ends if the free signal of log entry 8 is 0 at that one count, though it might be 1 at a
later one.) -/
def RunEnded (s : State) : Prop :=
  quiescent { s with tick := s.tick + 1 } = true ∧ (¬ Clean s ∨ (s.host.prog = [] ∧ s.host.pending = []))

/-! ### Words the statements use -/

/-- Every term with this operation code is this operation (for an operation without operands, R85). -/
def CodeIs (op : BitVec 8) (i : Instr) : Prop := ∀ t : Term, t.op = op → decode (.term t) = .ok i

/-- An operation is performed exactly in the states where a condition holds ("Enabled when"). -/
def RunsExactlyWhen (i : Instr) (s : State) (p : Prop) : Prop := (∃ t, exec i s = .next t) ↔ p

/-- An operation returns a word (in `host.ret`, log entry 16) and changes nothing else. -/
def Returns (i : Instr) (s : State) (v : Word) : Prop :=
  exec i s = .next { s with host := { s.host with ret := .word v } }

/-- An operation records a fault and changes nothing else (R184). -/
def Faults (i : Instr) (s : State) (f : FaultRec) : Prop := exec i s = .next { s with faultRec := some f }

/-- An operation records a refusal and changes nothing else (R185). -/
def Refuses (i : Instr) (s : State) (r : RefusalRec) : Prop := exec i s = .next { s with refusedRec := some r }

/-- The address lies in the register window (R57). -/
def InWindow (p : Params) (a : Word) : Prop := p.BLK_BASE ≤ a.toNat ∧ a.toNat < p.BLK_BASE + 0x200

/-- The address is that of a register of the window (R37, R58). -/
def IsRegAddr (p : Params) (a : Word) (r : Reg) : Prop :=
  p.BLK_BASE % 4 = 0 ∧ a.toNat = p.BLK_BASE + (regOffset r).toNat

/-- The address is that of an aligned word of the memory region, outside the window (R57, R62). -/
def IsMemAddr (p : Params) (a : Word) : Prop :=
  a.toNat % 4 = 0 ∧ ¬ InWindow p a ∧ p.MEM_BASE ≤ a.toNat ∧ a.toNat + 4 ≤ p.MEM_BASE + p.MEM_SIZE

/-- The byte address an operation would store a memory word to, with the expression its meaning uses: the address of HOST.STW, the
write address of a transfer, framebuffer word 0 for the first store of PX.FILL, the base-pointer word for that of
SYS.START; no other operation stores to memory. -/
def storesTo (i : Instr) (s : State) : Option Nat :=
  match i with
  | .hostStw a _ _ => some a.toNat
  | .dmaXfer c => some (chan s c).writeAddr.toNat
  | .pxFill _ => some s.cfg.FB_BASE
  | .sysStart => some s.cfg.BASEPTR_ADDR
  | .hostLdw _ _ _ | .sysStop | .dmaTrigger _ | .dmaAbort _ => none
  | .hAp | .hSp | .hBp | .vHold | .vVis | .vFp | .vSpl | .vSph | .vBp => none
  | .cWait | .cTake | .cOut | .cStall | .cDwell | .cBlank => none
  | .pxXlate _ _ | .pxMask _ | .pxSet _ _ _ | .pxGet _ _ _ => none
  | .rdSeqCtrl | .rdSeqFlags | .rdSeqFstat | .rdCgenTxf | .rdChReadAddr _ | .rdChWriteAddr _ => none
  | .rdChTransCount _ | .rdChCtrlTrig _ | .rdChCtrl _ | .rdChReadAddrTrig _ | .rdChTransRemain _ | .rdChanAbort => none
  | .wrSeqCtrl _ | .wrSeqFlags _ | .wrSeqFstat _ | .wrCgenTxf _ | .wrChReadAddr _ _ | .wrChWriteAddr _ _ => none
  | .wrChTransCount _ _ | .wrChCtrlTrig _ _ | .wrChCtrl _ _ | .wrChReadAddrTrig _ _ => none
  | .wrChTransRemain _ _ | .wrChanAbort _ => none

/-- The channel's transfer condition of R118 with the pacing signal of R117, for the pacing selects R117 gives a signal for. -/
def TransferCondition (c : Chan) (s : State) : Prop :=
  (chan s c).busy = true ∧ (chan s c).ctrl.en = true ∧ (chan s c).remain ≠ 0 ∧
  (((chan s c).ctrl.treqSel = 2 ∧ s.cgen.fifo.length < s.cfg.F) ∨ (chan s c).ctrl.treqSel = 0x3F)

/-- A bus read of the address gives the word: a memory word, or the value a register's read operation returns (R59). -/
def ReadsWord (s : State) (a v : Word) : Prop :=
  (IsMemAddr s.cfg a ∧ v = memRead s.mem a.toNat) ∨ ∃ r, IsRegAddr s.cfg a r ∧ Returns (readInstr r) s v

/-- A bus write of the word to the address gives the state: the memory word written, or what the register's write operation answers,
a recorded fault included (R59). -/
def WritesWord (s : State) (a v : Word) (u : State) : Prop :=
  (IsMemAddr s.cfg a ∧ u = { s with mem := memWrite s.mem a.toNat v }) ∨
  ∃ r, IsRegAddr s.cfg a r ∧ exec (writeInstr v r) s = .next u

/-- An operation writes the value to a register of the window: the register's write operation, HOST.STW to its address, or a transfer
that reads the value and writes it there (R58). -/
def WritesReg (i : Instr) (s : State) (r : Reg) (v : Word) : Prop :=
  i = writeInstr v r ∨ (∃ a, i = .hostStw a v 4 ∧ IsRegAddr s.cfg a r) ∨
  ∃ c, i = .dmaXfer c ∧ ReadsWord s (chan s c).readAddr v ∧ IsRegAddr s.cfg (chan s c).writeAddr r

/-- CTRL values a trigger admits (R51). -/
def CtrlLegal (k : Ctrl) : Prop := k.dataSize = 2 ∧ k.chainTo ≤ 1 ∧ (k.treqSel = 2 ∨ k.treqSel = 0x3F)

/-- The value of framebuffer word k (R67). -/
def fbWord (s : State) (k : Nat) : Word := memRead s.mem (s.cfg.FB_BASE + 4 * k)

/-- A HOST program stands ready: nothing recorded, no stores of an earlier pseudo-operation to come, and these lines next. -/
def HostReady (s : State) (lines rest : List Line) : Prop :=
  Clean s ∧ s.host.pending = [] ∧ s.host.prog = lines ++ rest

end Sys2Proof.Machine
end

