-- ==== Sys2Proof/Certificates/Slice0/Obligations.lean ====
section
/-! DEFINITION. The statements about the machine, from the numbered rules of spec/. -/

open Sys2Proof Sys2Proof.Machine

/-! ### Encoding -/

/-- Words written out from R84 and R85, one or more a unit, decode to the operations they stand for. -/
def Obligations.DecodeWords : Prop :=
  decode (.term { op := 0x01, a := 0x20000100, v := 0x3FFFFFFF }) = .ok (.hostStw 0x20000100 0x3FFFFFFF 4) ∧
  decode (.term { op := 0x22 }) = .ok .hBp ∧
  decode (.term { op := 0x44 }) = .ok .vSph ∧
  decode (.term { op := 0x62 }) = .ok .cOut ∧
  decode (.term { op := 0x80 }) = .ok (.dmaXfer .ch0) ∧
  decode (.term { op := 0x8A }) = .ok (.dmaAbort .ch1) ∧
  decode (.term { op := 0xA2, x := 9, y := 0, col := 7 }) = .ok (.pxSet 9 0 7) ∧
  decode (.term { op := 0xC1 }) = .ok .sysStop ∧
  decode (.access { offset := 0x154, dir := .read }) = .ok (.rdChReadAddrTrig .ch1) ∧
  decode (.access { offset := 0x110, dir := .write, data := 0x0001081B }) = .ok (.wrChCtrl .ch0 0x0001081B)

/-- R84, R85: decode of encode of an operation is the operation, with every operand at every value; and a code that decodes to an
operation has the operation's own code: the operation number of the term, or the offset, the direction and the written value of
the access. -/
def Obligations.DecodeEncodeAgree : Prop :=
  (∀ i : Instr, decode (encode i) = .ok i) ∧
  (∀ (t : Term) (i : Instr), decode (.term t) = .ok i → ∃ u, encode i = .term u ∧ u.op = t.op) ∧
  (∀ (b : BusAccess) (i : Instr), decode (.access b) = .ok i →
    ∃ d, encode i = .access d ∧ d.offset = b.offset ∧ d.dir = b.dir ∧ (b.dir = .write → d.data = b.data))

/-- R85, R87: the thirty codes of R85, each the operation the rule names with the fields it uses; a term with any other code is
rejected by name. -/
def Obligations.TermCodes : Prop :=
  (∀ op i, (op, i) ∈ ([(0x20, .hAp), (0x21, .hSp), (0x22, .hBp), (0x40, .vHold), (0x41, .vVis), (0x42, .vFp), (0x43, .vSpl),
      (0x44, .vSph), (0x45, .vBp), (0x60, .cWait), (0x61, .cTake), (0x62, .cOut), (0x63, .cStall), (0x64, .cDwell),
      (0x65, .cBlank), (0x80, .dmaXfer .ch0), (0x88, .dmaXfer .ch1), (0x81, .dmaTrigger .ch0), (0x89, .dmaTrigger .ch1),
      (0x82, .dmaAbort .ch0), (0x8A, .dmaAbort .ch1), (0xC0, .sysStart), (0xC1, .sysStop)] : List (BitVec 8 × Instr)) →
    CodeIs op i) ∧
  ∀ t : Term,
    (t.op = 0x00 → decode (.term t) = .ok (.hostLdw t.a t.width t.name)) ∧
    (t.op = 0x01 → decode (.term t) = .ok (.hostStw t.a t.v t.width)) ∧
    (t.op = 0xA0 → decode (.term t) = .ok (.pxXlate t.x t.y)) ∧
    (t.op = 0xA1 → decode (.term t) = .ok (.pxMask t.col)) ∧
    (t.op = 0xA2 → decode (.term t) = .ok (.pxSet t.x t.y t.col)) ∧
    (t.op = 0xA3 → decode (.term t) = .ok (.pxGet t.x t.y t.name)) ∧
    (t.op = 0xA4 → decode (.term t) = .ok (.pxFill t.col)) ∧
    (t.op ∉ ([0x00, 0x01, 0x20, 0x21, 0x22, 0x40, 0x41, 0x42, 0x43, 0x44, 0x45, 0x60, 0x61, 0x62, 0x63, 0x64, 0x65,
        0x80, 0x88, 0x81, 0x89, 0x82, 0x8A, 0xA0, 0xA1, 0xA2, 0xA3, 0xA4, 0xC0, 0xC1] : List (BitVec 8)) →
      decode (.term t) = .error (.reservedOpcode t.op))

/-- R84, R37: the twelve registers at their offsets, channel c's at 0x40*c, each with its read and its write operation; every other
offset is rejected by name. -/
def Obligations.RegisterOffsets : Prop :=
  (∀ (v : Word) (o : BitVec 9) (rd wr : Instr),
    (o, rd, wr) ∈ ([(0x000, .rdSeqCtrl, .wrSeqCtrl v), (0x004, .rdSeqFlags, .wrSeqFlags v),
      (0x008, .rdSeqFstat, .wrSeqFstat v), (0x010, .rdCgenTxf, .wrCgenTxf v), (0x180, .rdChanAbort, .wrChanAbort v),
      (0x100, .rdChReadAddr .ch0, .wrChReadAddr .ch0 v), (0x104, .rdChWriteAddr .ch0, .wrChWriteAddr .ch0 v),
      (0x108, .rdChTransCount .ch0, .wrChTransCount .ch0 v), (0x10C, .rdChCtrlTrig .ch0, .wrChCtrlTrig .ch0 v),
      (0x110, .rdChCtrl .ch0, .wrChCtrl .ch0 v), (0x114, .rdChReadAddrTrig .ch0, .wrChReadAddrTrig .ch0 v),
      (0x118, .rdChTransRemain .ch0, .wrChTransRemain .ch0 v),
      (0x140, .rdChReadAddr .ch1, .wrChReadAddr .ch1 v), (0x144, .rdChWriteAddr .ch1, .wrChWriteAddr .ch1 v),
      (0x148, .rdChTransCount .ch1, .wrChTransCount .ch1 v), (0x14C, .rdChCtrlTrig .ch1, .wrChCtrlTrig .ch1 v),
      (0x150, .rdChCtrl .ch1, .wrChCtrl .ch1 v), (0x154, .rdChReadAddrTrig .ch1, .wrChReadAddrTrig .ch1 v),
      (0x158, .rdChTransRemain .ch1, .wrChTransRemain .ch1 v)] : List (BitVec 9 × Instr × Instr)) →
    (∀ w, decode (.access { offset := o, dir := .read, data := w }) = .ok rd) ∧
    decode (.access { offset := o, dir := .write, data := v }) = .ok wr) ∧
  (∀ (d : Dir) (v : Word) (o : BitVec 9),
    o ∉ ([0x000, 0x004, 0x008, 0x010, 0x180, 0x100, 0x104, 0x108, 0x10C, 0x110, 0x114, 0x118,
      0x140, 0x144, 0x148, 0x14C, 0x150, 0x154, 0x158] : List (BitVec 9)) →
    decode (.access { offset := o, dir := d, data := v }) = .error (.unmappedOffset o))

/-! ### The step -/

/-- R13, R85, R89, R90, R152: where HOST is chosen, a step performs the next store of the expansion it is in, or the operation of its
next line: an operation term, a register access, or one of the seven lines of R89 with its ADDR and VALUE, in program order; around
exec, the line or store is taken from the program, the script moves on and the step count rises (the model's own fields, log
entries 3 and 15). A VALUE that is a NAME not bound is refused (log entry 18); an FB[k] of 2^32 or more wraps (log entry 31);
`BLK_BASE + o` is the model's reading (log entry 33). -/
def Obligations.StepRunsHostOperation : Prop :=
  ∀ (s : State) (sch : List Agent), Clean s → choose { s with tick := s.tick + 1 } = some (.host, sch) →
    let after (rest : List Line) : State := { s with tick := s.tick + 1, sched := sch, host := { s.host with prog := rest } }
    let addr (a : AddrExpr) : Word := match a with
      | .num n => n
      | .reg r => BitVec.ofNat 32 (s.cfg.BLK_BASE + (regOffset r).toNat)
      | .fb k => BitVec.ofNat 32 (s.cfg.FB_BASE + 4 * k)
      | .basePtr => BitVec.ofNat 32 s.cfg.BASEPTR_ADDR
      | .blkPlus o => BitVec.ofNat 32 (s.cfg.BLK_BASE + o)
    let value (v : ValueExpr) : Option Word := match v with
      | .num w => some w
      | .name n => lookupName s.host.names n
      | .paramN => some (BitVec.ofNat 32 s.cfg.N)
      | .paramFbBase => some (BitVec.ofNat 32 s.cfg.FB_BASE)
      | .paramBaseptrAddr => some (BitVec.ofNat 32 s.cfg.BASEPTR_ADDR)
      | .paramBlkBase => some (BitVec.ofNat 32 s.cfg.BLK_BASE)
      | .blkPlus o => some (BitVec.ofNat 32 (s.cfg.BLK_BASE + o))
    (∀ st rest, s.host.pending = st :: rest →
      step s = exec (.hostStw st.addr st.value 4)
        { s with tick := s.tick + 1, sched := sch, host := { s.host with pending := rest } }) ∧
    (s.host.pending = [] → ∀ l rest, s.host.prog = l :: rest →
      (∀ t i, l = .term t → decode (.term t) = .ok i → i.hostIssuable = true → step s = exec i (after rest)) ∧
      (∀ b i, l = .access b → decode (.access b) = .ok i → step s = exec i (after rest)) ∧
      (∀ a n, l = .ldw a n → step s = exec (.hostLdw (addr a) 4 n) (after rest)) ∧
      (∀ a v w, l = .stw a v → value v = some w → step s = exec (.hostStw (addr a) w 4) (after rest)) ∧
      (∀ a n, l = .stw a (.name n) → lookupName s.host.names n = none → step s = .refused (.unboundName n)) ∧
      (∀ x y c, l = .setPixel x y c → step s = exec (.pxSet x y c) (after rest)) ∧
      (∀ x y n, l = .getPixel x y n → step s = exec (.pxGet x y n) (after rest)) ∧
      (∀ c, l = .fillAll c → step s = exec (.pxFill c) (after rest)) ∧
      (l = .start → step s = exec .sysStart (after rest)) ∧
      (l = .stop → step s = exec .sysStop (after rest)))

/-- R13, R27, R86: where a generator or a channel is chosen, a step performs the operation its state selects. -/
def Obligations.StepRunsUnitOperation : Prop :=
  ∀ (s : State) (a : Agent) (sch : List Agent), Clean s → choose { s with tick := s.tick + 1 } = some (a, sch) →
    let u := { s with tick := s.tick + 1, sched := sch }
    (a = .hgen →
      (s.hgen.phase = .ap → step s = exec .hAp u) ∧ (s.hgen.phase = .sp → step s = exec .hSp u) ∧
      (s.hgen.phase = .bp → step s = exec .hBp u)) ∧
    (a = .vgen →
      (s.flagA = false → step s = exec .vHold u) ∧
      (s.flagA = true →
        (s.vgen.phase = .vis → step s = exec .vVis u) ∧ (s.vgen.phase = .fp → step s = exec .vFp u) ∧
        (s.vgen.phase = .spl → step s = exec .vSpl u) ∧ (s.vgen.phase = .sph → step s = exec .vSph u) ∧
        (s.vgen.phase = .bp → step s = exec .vBp u))) ∧
    (a = .cgen →
      (s.cgen.phase = .waitb → s.flagB = false → step s = exec .cWait u) ∧
      (s.cgen.phase = .waitb → s.flagB = true → step s = exec .cTake u) ∧
      (s.cgen.phase = .pixel → (s.cgen.osrn ≠ 0 ∨ s.cgen.fifo ≠ []) → step s = exec .cOut u) ∧
      (s.cgen.phase = .pixel → s.cgen.osrn = 0 → s.cgen.fifo = [] → step s = exec .cStall u) ∧
      (s.cgen.phase = .dwell → step s = exec .cDwell u) ∧ (s.cgen.phase = .blank → step s = exec .cBlank u)) ∧
    (∀ c, a = .dma c → step s = exec (.dmaXfer c) u)

/-- R152, R86, R87: a host term with a reserved or an agent-step code is refused with REF_OPCODE; R37, R59, R62, R190: an access to the
window at an offset that is no multiple of 4 faults FLT_MISALIGNED, and else one to an unmapped offset faults FLT_UNMAPPED (that an
access at the slave port records its bus address is the model's, log entry 17). -/
def Obligations.StepRejectsHostCode : Prop :=
  ∀ (s : State) (sch : List Agent), Clean s → choose { s with tick := s.tick + 1 } = some (.host, sch) →
    s.host.pending = [] →
    let after (rest : List Line) : State := { s with tick := s.tick + 1, sched := sch, host := { s.host with prog := rest } }
    (∀ (t : Term) (rest : List Line), s.host.prog = .term t :: rest →
      t.op ∉ ([0x00, 0x01, 0xA0, 0xA1, 0xA2, 0xA3, 0xA4, 0xC0, 0xC1] : List (BitVec 8)) →
      step s = .next { after rest with refusedRec := some .opcode }) ∧
    (∀ (b : BusAccess) (rest : List Line), s.host.prog = .access b :: rest →
      (b.offset.toNat % 4 ≠ 0 → step s = .next { after rest with
        faultRec := some (.misaligned (BitVec.ofNat 32 (s.cfg.BLK_BASE + b.offset.toNat))) }) ∧
      (b.offset.toNat % 4 = 0 → (∀ r, regOffset r ≠ b.offset) → step s = .next { after rest with
        faultRec := some (.unmapped (BitVec.ofNat 32 (s.cfg.BLK_BASE + b.offset.toNat))) }))

/-- R186: once a fault or a refusal is recorded nothing runs: no agent is enabled, no operation answers a next state, and the step
stops with the record (the model's outcome, log entry 4). -/
def Obligations.RecordStopsMachine : Prop :=
  ∀ s : State, ¬ Clean s →
    (∀ a, agentEnabled a s = false) ∧ (∀ i t, exec i s ≠ .next t) ∧ (∀ t, step s ≠ .next t) ∧
    (∀ f, s.faultRec = some f → step s = .fault (.halted f)) ∧
    (∀ r, s.faultRec = none → s.refusedRec = some r → step s = .refused (.halted r))

/-- R13, R14: the agent that takes a step is an enabled one, and the step is one operation of it (`agentStep`, of which the runs of
Machine/Run.lean are made); every enabled agent can be the one; where none is, the step says so; and a script is followed, passing
over agents that are not enabled (R19). That the script and a free value make the choice, and that a step with no agent enabled
says that the run has ended, is the model's (log entries 3, 24, 35 and 37). -/
def Obligations.AnyEnabledAgentMayStep : Prop :=
  (∀ (s : State) (a : Agent) (l : List Agent), choose s = some (a, l) → agentEnabled a s = true) ∧
  (∀ (s : State) (a : Agent), agentEnabled a s = true → choose { s with sched := [a] } = some (a, [])) ∧
  (∀ s : State, choose s = none ↔ ∀ a, agentEnabled a s = false) ∧
  (∀ (s : State) (pre rest : List Agent) (a : Agent), s.sched = pre ++ a :: rest → (∀ b ∈ pre, agentEnabled b s = false) →
    agentEnabled a s = true → choose s = some (a, rest)) ∧
  (∀ (s : State) (a : Agent) (sch : List Agent), Clean s → choose { s with tick := s.tick + 1 } = some (a, sch) →
    step s = agentStep a { s with tick := s.tick + 1, sched := sch }) ∧
  (∀ s : State, Clean s → (∀ a, agentEnabled a { s with tick := s.tick + 1 } = false) → step s = .fault .runEnded)

/-! ### Reset and configuration -/

/-- R55, R205: what block reset sets (C_NEXT, a draw, is left free), and that every readable register then reads 0 but SEQ_FSTAT, which
reads 0x00000200. -/
def Obligations.ResetValues : Prop :=
  ∀ p : Params, p.cfgOk = true →
    let s := State.resetWith p
    (s.hgen.phase = .ap ∧ s.hgen.cnt = BitVec.ofNat 32 p.H_AP ∧ s.hgen.hsync = true) ∧
    (s.vgen.phase = .vis ∧ s.vgen.cnt = BitVec.ofNat 32 p.V ∧ s.vgen.vsync = true) ∧
    (s.cgen.phase = .waitb ∧ s.cgen.px = 0 ∧ s.cgen.osr = 0 ∧ s.cgen.osrn = 0 ∧ s.cgen.dw = 0 ∧ s.cgen.color = 0 ∧
      s.cgen.fifo = []) ∧
    s.flagA = false ∧ s.flagB = false ∧ s.smEn = 0 ∧
    (∀ c, (chan s c).readAddr = 0 ∧ (chan s c).writeAddr = 0 ∧ (chan s c).transCount = 0 ∧ (chan s c).remain = 0 ∧
      (chan s c).busy = false ∧ (chan s c).ctrl.en = false ∧ (chan s c).ctrl.highPriority = false ∧
      (chan s c).ctrl.dataSize = 0 ∧ (chan s c).ctrl.incrRead = false ∧ (chan s c).ctrl.incrWrite = false ∧
      (chan s c).ctrl.chainTo = 0 ∧ (chan s c).ctrl.treqSel = 0) ∧
    s.faultRec = none ∧ s.refusedRec = none ∧
    (∀ r v, readReg s r = .ok v → v = if r = .seqFstat then 0x00000200 else 0) ∧
    portHSync s = true ∧ portVSync s = true ∧ (∀ i, portColor s i = false)

/-- R187, R206: a configuration is refused with REF_CONFIG before any operation where it fails a clause of CFG (R11; that H and V are
bounded by the counters' width too is the model's reading, log entry 19), and then no operation runs; one that passes records
nothing, and with a program loaded HOST has an enabled operation. -/
def Obligations.ConfigurationRefused : Prop :=
  ∀ p : Params,
    (p.cfgOk = true ↔
      (p.H * 3 % 30 = 0) ∧ (10 ≤ p.H ∧ 1 ≤ p.V) ∧
      (1 ≤ p.H_AP ∧ 1 ≤ p.H_SP ∧ 1 ≤ p.H_BP ∧ 1 ≤ p.V_FP ∧ 1 ≤ p.V_SPL ∧ 1 ≤ p.V_BP ∧ 1 ≤ p.C_PIX ∧ 1 ≤ p.F ∧ p.F ≤ 255 ∧
        ∀ n ∈ [p.H_AP, p.H_SP, p.H_BP, p.V_FP, p.V_SPL, p.V_SPH, p.V_BP, p.C_PIX, p.H, p.V], n ≤ 2 ^ 32 - 1) ∧
      (1 ≤ p.N ∧ p.N ≤ 2 ^ 32 - 1) ∧
      (p.FB_BASE % 4 = 0 ∧ p.BASEPTR_ADDR % 4 = 0 ∧ p.BLK_BASE % 4 = 0 ∧ p.MEM_BASE % 4 = 0 ∧ p.FB_BASE ≠ 0) ∧
      (p.MEM_BASE ≤ p.FB_BASE ∧ p.FB_BASE + 4 * p.N ≤ p.MEM_BASE + p.MEM_SIZE ∧
        p.MEM_BASE ≤ p.BASEPTR_ADDR ∧ p.BASEPTR_ADDR + 4 ≤ p.MEM_BASE + p.MEM_SIZE ∧
        (p.FB_BASE + 4 * p.N ≤ p.BASEPTR_ADDR ∨ p.BASEPTR_ADDR + 4 ≤ p.FB_BASE)) ∧
      ((p.MEM_BASE + p.MEM_SIZE ≤ p.BLK_BASE ∨ p.BLK_BASE + 0x200 ≤ p.MEM_BASE) ∧
        p.MEM_BASE + p.MEM_SIZE ≤ 2 ^ 32 ∧ p.BLK_BASE + 0x200 ≤ 2 ^ 32)) ∧
    (p.cfgOk = false → (State.resetWith p).refusedRec = some .config ∧
      (∀ i t, exec i (State.resetWith p) ≠ .next t) ∧ step (State.resetWith p) = .refused (.halted .config)) ∧
    (p.cfgOk = true → Clean (State.resetWith p) ∧
      ∀ l rest, agentEnabled .host { State.resetWith p with host := { initHost with prog := l :: rest } } = true)

/-- The invariant of the block holds at reset, whatever configuration passes CFG (R22, R23, R24, R34, R36, R60), and at the model's
launch configuration (log entry 1). -/
def Obligations.ResetMeetsInvariant : Prop :=
  (∀ p : Params, p.cfgOk = true → BlockInv (State.resetWith p)) ∧ BlockInv State.reset

/-- Every step keeps the invariant of the block: BUSY with REMAIN (R36), the FIFO within its capacity (R34), the phase counters at
least 1 (R22, R23), CGEN's line accounting (R24, R110), and memory in canonical form inside its region (R60). -/
def Obligations.StepKeepsInvariant : Prop :=
  ∀ s t : State, BlockInv s → step s = .next t → BlockInv t

/-- R18, R207: no operation, and no step, changes the configuration. -/
def Obligations.StepKeepsConfiguration : Prop :=
  (∀ (i : Instr) (s t : State), exec i s = .next t → t.cfg = s.cfg) ∧ ∀ s t : State, step s = .next t → t.cfg = s.cfg

/-! ### The generators -/

/-- R93, R94, R95: the three HGEN operations: code, when enabled, and the whole next state. -/
def Obligations.HgenCycle : Prop :=
  CodeIs 0x20 .hAp ∧ CodeIs 0x21 .hSp ∧ CodeIs 0x22 .hBp ∧
  ∀ s : State,
    RunsExactlyWhen .hAp s (Clean s ∧ s.smEn.getLsbD 0 = true ∧ s.hgen.phase = .ap) ∧
    RunsExactlyWhen .hSp s (Clean s ∧ s.smEn.getLsbD 0 = true ∧ s.hgen.phase = .sp) ∧
    RunsExactlyWhen .hBp s (Clean s ∧ s.smEn.getLsbD 0 = true ∧ s.hgen.phase = .bp) ∧
    (Clean s → s.smEn.getLsbD 0 = true →
      (s.hgen.phase = .ap → exec .hAp s = .next (if s.hgen.cnt = 1
        then { s with hgen := { phase := .sp, cnt := BitVec.ofNat 32 s.cfg.H_SP, hsync := true } }
        else { s with hgen := { phase := .ap, cnt := s.hgen.cnt - 1, hsync := true } })) ∧
      (s.hgen.phase = .sp → exec .hSp s = .next (if s.hgen.cnt = 1
        then { s with hgen := { phase := .bp, cnt := BitVec.ofNat 32 s.cfg.H_BP, hsync := false } }
        else { s with hgen := { phase := .sp, cnt := s.hgen.cnt - 1, hsync := false } })) ∧
      (s.hgen.phase = .bp → exec .hBp s = .next (if s.hgen.cnt = 1
        then { s with flagA := true, hgen := { phase := .ap, cnt := BitVec.ofNat 32 s.cfg.H_AP, hsync := true } }
        else { s with hgen := { phase := .bp, cnt := s.hgen.cnt - 1, hsync := true } })))

/-- R97 to R102: the six VGEN operations: code, when enabled, and the whole next state. -/
def Obligations.VgenEvent : Prop :=
  CodeIs 0x40 .vHold ∧ CodeIs 0x41 .vVis ∧ CodeIs 0x42 .vFp ∧ CodeIs 0x43 .vSpl ∧ CodeIs 0x44 .vSph ∧ CodeIs 0x45 .vBp ∧
  ∀ s : State,
    RunsExactlyWhen .vHold s (Clean s ∧ s.smEn.getLsbD 1 = true ∧ s.flagA = false) ∧
    RunsExactlyWhen .vVis s (Clean s ∧ s.smEn.getLsbD 1 = true ∧ s.flagA = true ∧ s.vgen.phase = .vis) ∧
    RunsExactlyWhen .vFp s (Clean s ∧ s.smEn.getLsbD 1 = true ∧ s.flagA = true ∧ s.vgen.phase = .fp) ∧
    RunsExactlyWhen .vSpl s (Clean s ∧ s.smEn.getLsbD 1 = true ∧ s.flagA = true ∧ s.vgen.phase = .spl) ∧
    RunsExactlyWhen .vSph s (Clean s ∧ s.smEn.getLsbD 1 = true ∧ s.flagA = true ∧ s.vgen.phase = .sph) ∧
    RunsExactlyWhen .vBp s (Clean s ∧ s.smEn.getLsbD 1 = true ∧ s.flagA = true ∧ s.vgen.phase = .bp) ∧
    (Clean s → s.smEn.getLsbD 1 = true →
      (s.flagA = false → exec .vHold s = .next s) ∧
      (s.flagA = true →
        (s.vgen.phase = .vis → exec .vVis s = .next { s with
          flagA := false, flagB := true
          vgen := if s.vgen.cnt = 1 then { phase := .fp, cnt := BitVec.ofNat 32 s.cfg.V_FP, vsync := true }
            else { phase := .vis, cnt := s.vgen.cnt - 1, vsync := true } }) ∧
        (s.vgen.phase = .fp → exec .vFp s = .next { s with
          flagA := false
          vgen := if s.vgen.cnt = 1 then { phase := .spl, cnt := BitVec.ofNat 32 s.cfg.V_SPL, vsync := true }
            else { phase := .fp, cnt := s.vgen.cnt - 1, vsync := true } }) ∧
        (s.vgen.phase = .spl → exec .vSpl s = .next { s with
          flagA := false
          vgen := if s.vgen.cnt = 1
            then (if 0 < s.cfg.V_SPH then { phase := .sph, cnt := BitVec.ofNat 32 s.cfg.V_SPH, vsync := false }
              else { phase := .bp, cnt := BitVec.ofNat 32 s.cfg.V_BP, vsync := false })
            else { phase := .spl, cnt := s.vgen.cnt - 1, vsync := false } }) ∧
        (s.vgen.phase = .sph → exec .vSph s = .next { s with
          flagA := false
          vgen := if s.vgen.cnt = 1 then { phase := .bp, cnt := BitVec.ofNat 32 s.cfg.V_BP, vsync := true }
            else { phase := .sph, cnt := s.vgen.cnt - 1, vsync := true } }) ∧
        (s.vgen.phase = .bp → exec .vBp s = .next { s with
          flagA := false
          vgen := if s.vgen.cnt = 1 then { phase := .vis, cnt := BitVec.ofNat 32 s.cfg.V, vsync := true }
            else { phase := .bp, cnt := s.vgen.cnt - 1, vsync := true } })))

/-- R104, R105, R107, R108, R109: the CGEN operations but C.OUT: code, when enabled, and the whole next state. -/
def Obligations.CgenHoldTakeDwellBlank : Prop :=
  CodeIs 0x60 .cWait ∧ CodeIs 0x61 .cTake ∧ CodeIs 0x63 .cStall ∧ CodeIs 0x64 .cDwell ∧ CodeIs 0x65 .cBlank ∧
  ∀ s : State,
    RunsExactlyWhen .cWait s (Clean s ∧ s.smEn.getLsbD 2 = true ∧ s.cgen.phase = .waitb ∧ s.flagB = false) ∧
    RunsExactlyWhen .cTake s (Clean s ∧ s.smEn.getLsbD 2 = true ∧ s.cgen.phase = .waitb ∧ s.flagB = true) ∧
    RunsExactlyWhen .cStall s
      (Clean s ∧ s.smEn.getLsbD 2 = true ∧ s.cgen.phase = .pixel ∧ s.cgen.osrn = 0 ∧ s.cgen.fifo.length = 0) ∧
    RunsExactlyWhen .cDwell s (Clean s ∧ s.smEn.getLsbD 2 = true ∧ s.cgen.phase = .dwell) ∧
    RunsExactlyWhen .cBlank s (Clean s ∧ s.smEn.getLsbD 2 = true ∧ s.cgen.phase = .blank) ∧
    (Clean s → s.smEn.getLsbD 2 = true →
      (s.cgen.phase = .waitb → s.flagB = false → exec .cWait s = .next s) ∧
      (s.cgen.phase = .waitb → s.flagB = true → exec .cTake s = .next { s with
        flagB := false, cgen := { s.cgen with px := BitVec.ofNat 32 s.cfg.H, phase := .pixel } }) ∧
      (s.cgen.phase = .pixel → s.cgen.osrn = 0 → s.cgen.fifo = [] → exec .cStall s = .next s) ∧
      (s.cgen.phase = .dwell → exec .cDwell s = .next { s with cgen := { s.cgen with
        dw := s.cgen.dw - 1
        phase := if s.cgen.dw = 1 then (if s.cgen.px = 0 then .blank else .pixel) else .dwell } }) ∧
      (s.cgen.phase = .blank → exec .cBlank s = .next { s with cgen := { s.cgen with color := 0, phase := .waitb } }))

/-- R106: C.OUT: code, when enabled, and the whole next state, from a loaded shift register and from an empty one (which first takes the
latch, and the latch the oldest FIFO word). -/
def Obligations.CgenOut : Prop :=
  CodeIs 0x62 .cOut ∧
  ∀ s : State,
    RunsExactlyWhen .cOut s
      (Clean s ∧ s.smEn.getLsbD 2 = true ∧ s.cgen.phase = .pixel ∧ (s.cgen.osrn ≠ 0 ∨ 0 < s.cgen.fifo.length)) ∧
    (Clean s → s.smEn.getLsbD 2 = true → s.cgen.phase = .pixel →
      let dwAfter := if 1 < s.cfg.C_PIX then BitVec.ofNat 32 (s.cfg.C_PIX - 1) else s.cgen.dw
      let phaseAfter := if 1 < s.cfg.C_PIX then CPhase.dwell else if s.cgen.px = 1 then .blank else .pixel
      (s.cgen.osrn ≠ 0 → exec .cOut s = .next { s with cgen := { s.cgen with
        color := s.cgen.osr.extractLsb' 0 3, osr := s.cgen.osr >>> 3, osrn := s.cgen.osrn - 1, px := s.cgen.px - 1
        dw := dwAfter, phase := phaseAfter } }) ∧
      (∀ w ws, s.cgen.osrn = 0 → s.cgen.fifo = w :: ws → exec .cOut s = .next { s with cgen := { s.cgen with
        color := s.cgen.next.extractLsb' 0 3, osr := s.cgen.next >>> 3, osrn := 9, next := w, fifo := ws
        px := s.cgen.px - 1, dw := dwAfter, phase := phaseAfter } }))

/-- R14, R91, R188: an enabled generator has exactly one enabled operation, which records neither fault nor refusal; a disabled one has
none (exec of an operation that is not enabled answers the refusal notEnabled, log entry 5). -/
def Obligations.GeneratorHasOneOperation : Prop :=
  ∀ s : State, Clean s →
    let hOps := [Instr.hAp, .hSp, .hBp]
    let vOps := [Instr.vHold, .vVis, .vFp, .vSpl, .vSph, .vBp]
    let cOps := [Instr.cWait, .cTake, .cOut, .cStall, .cDwell, .cBlank]
    (s.smEn.getLsbD 0 = true → ∃ i ∈ hOps, (∃ t, exec i s = .next t ∧ Clean t) ∧
      ∀ j ∈ hOps, j ≠ i → exec j s = .refused .notEnabled) ∧
    (s.smEn.getLsbD 1 = true → ∃ i ∈ vOps, (∃ t, exec i s = .next t ∧ Clean t) ∧
      ∀ j ∈ vOps, j ≠ i → exec j s = .refused .notEnabled) ∧
    (s.smEn.getLsbD 2 = true → ∃ i ∈ cOps, (∃ t, exec i s = .next t ∧ Clean t) ∧
      ∀ j ∈ cOps, j ≠ i → exec j s = .refused .notEnabled) ∧
    (s.smEn.getLsbD 0 = false → agentEnabled .hgen s = false ∧ ∀ j ∈ hOps, exec j s = .refused .notEnabled) ∧
    (s.smEn.getLsbD 1 = false → agentEnabled .vgen s = false ∧ ∀ j ∈ vOps, exec j s = .refused .notEnabled) ∧
    (s.smEn.getLsbD 2 = false → agentEnabled .cgen s = false ∧ ∀ j ∈ cOps, exec j s = .refused .notEnabled)

/-- R22 to R27, R92, R165, R168: whatever operation runs, a generator's registers and output are written only by its own operations, run
while its enable bit is 1, and by its restart, a write to SEQ_CTRL with its restart bit 1, which sets its initial state (the draw in
C_NEXT is the model's free value, log entry 7); and a write to CGEN_TXF pushes the word written into CGEN's FIFO. -/
def Obligations.GeneratorRegistersHaveOneWriter : Prop :=
  ∀ (i : Instr) (s t : State), s.cfg.cfgOk = true → exec i s = .next t →
    let restarts (bit : Nat) : Prop := ∃ v, WritesReg i s .seqCtrl v ∧ v.getLsbD bit = true
    (t.hgen = s.hgen ∨ (restarts 4 ∧ t.hgen = { phase := .ap, cnt := BitVec.ofNat 32 s.cfg.H_AP, hsync := true }) ∨
      (s.smEn.getLsbD 0 = true ∧ i ∈ [Instr.hAp, .hSp, .hBp])) ∧
    (t.vgen = s.vgen ∨ (restarts 5 ∧ t.vgen = { phase := .vis, cnt := BitVec.ofNat 32 s.cfg.V, vsync := true }) ∨
      (s.smEn.getLsbD 1 = true ∧ i ∈ [Instr.vVis, .vFp, .vSpl, .vSph, .vBp])) ∧
    (t.cgen = s.cgen ∨
      (∃ v, WritesReg i s .cgenTxf v ∧ s.cgen.fifo.length < s.cfg.F ∧ t.cgen = { s.cgen with fifo := s.cgen.fifo ++ [v] }) ∨
      (restarts 6 ∧ t.cgen = { phase := .waitb, px := 0, osr := 0, osrn := 0, next := Config.latchDraw s.draws, dw := 0,
                               color := 0, fifo := [] }) ∨
      (s.smEn.getLsbD 2 = true ∧ i ∈ [Instr.cTake, .cOut, .cDwell, .cBlank]))

/-- R25, R113, R114: COLOR_OUT drives the three COLOR ports, and is written by C.OUT (a pixel field), by C.BLANK (0) and by a restart
of CGEN (0, with a draw counted, log entry 7) only. -/
def Obligations.ColorOutWriters : Prop :=
  (∀ (s : State) (k : Nat), portColor s k = s.cgen.color.getLsbD k) ∧
  ∀ (i : Instr) (s t : State), exec i s = .next t → t.cgen.color ≠ s.cgen.color →
    (i = .cOut ∧ ∃ w, w = (if s.cgen.osrn = 0 then s.cgen.next else s.cgen.osr) ∧ t.cgen.color = w.extractLsb' 0 3) ∨
    (i = .cBlank ∧ t.cgen.color = 0) ∨
    (t.cgen.color = 0 ∧ t.cgen.phase = .waitb ∧ t.cgen.fifo = [] ∧ t.draws = s.draws + 1)

/-- R31, R32, R33, R191: FLAG_A is set only by HGEN's last back-porch cycle and cleared only by VGEN's line events or a write of 1 to
SEQ_FLAGS[0]; FLAG_B is set only by V.VIS and cleared only by C.TAKE or a write of 1 to SEQ_FLAGS[1]. -/
def Obligations.FlagWriters : Prop :=
  ∀ (i : Instr) (s t : State), s.cfg.cfgOk = true → exec i s = .next t →
    (s.flagA = false → t.flagA = true → i = .hBp ∧ s.hgen.cnt = 1) ∧
    (s.flagB = false → t.flagB = true → i = .vVis) ∧
    (s.flagA = true → t.flagA = false → i ∈ [Instr.vVis, .vFp, .vSpl, .vSph, .vBp] ∨
      (∃ v, i = .wrSeqFlags v ∧ v.getLsbD 0 = true) ∨
      (∃ a v, i = .hostStw a v 4 ∧ a.toNat = s.cfg.BLK_BASE + 4 ∧ v.getLsbD 0 = true) ∨
      (∃ c, i = .dmaXfer c ∧ (chan s c).writeAddr.toNat = s.cfg.BLK_BASE + 4)) ∧
    (s.flagB = true → t.flagB = false → i = .cTake ∨
      (∃ v, i = .wrSeqFlags v ∧ v.getLsbD 1 = true) ∨
      (∃ a v, i = .hostStw a v 4 ∧ a.toNat = s.cfg.BLK_BASE + 4 ∧ v.getLsbD 1 = true) ∨
      (∃ c, i = .dmaXfer c ∧ (chan s c).writeAddr.toNat = s.cfg.BLK_BASE + 4))

/-- R96: from its initial state HGEN draws one line in T_H cycles: HSYNC is 1, then 0 for the H_SP cycles after the first H_AP, then
1; FLAG_A is set by the last cycle and by no other; and the T_H cycles bring HGEN back to its initial state. -/
def Obligations.HgenLine : Prop :=
  ∀ s : State, Clean s → s.cfg.cfgOk = true → s.smEn.getLsbD 0 = true → s.hgen = initHGen s.cfg →
    (∀ k, k < s.cfg.T_H → ∃ t, runAgents (List.replicate (k + 1) .hgen) s = some t ∧
      t.hgen.hsync = !(decide (s.cfg.H_AP ≤ k) && decide (k < s.cfg.H_AP + s.cfg.H_SP)) ∧
      t.flagA = (s.flagA || decide (k = s.cfg.T_H - 1))) ∧
    runAgents (List.replicate s.cfg.T_H .hgen) s = some { s with flagA := true }

/-- R103: from its initial state VGEN draws one frame in T_V line events: each of the first V sets FLAG_B and no other does, the next
V_FP are front porch, VSYNC is 0 from event V + V_FP on for V_SPL events and 1 otherwise, and the T_V events bring VGEN back to
its initial state. -/
def Obligations.VgenFrame : Prop :=
  ∀ s : State, Clean s → s.cfg.cfgOk = true → s.smEn.getLsbD 1 = true → s.vgen = initVGen s.cfg →
    (∀ e, e < s.cfg.T_V → ∃ u t, lineEvents e s = some u ∧ lineEvents 1 { u with flagB := false } = some t ∧
      t.flagA = false ∧ t.flagB = decide (e < s.cfg.V) ∧
      (u.vgen.phase = .fp ↔ s.cfg.V ≤ e ∧ e < s.cfg.V + s.cfg.V_FP) ∧
      t.vgen.vsync = !(decide (s.cfg.V + s.cfg.V_FP ≤ e) && decide (e < s.cfg.V + s.cfg.V_FP + s.cfg.V_SPL))) ∧
    lineEvents s.cfg.T_V s = some { s with flagA := false, flagB := true }

/-- R110, R111, R115: a line that finds WPR words in the FIFO drives H pixels, each for C_PIX cycles, the pixels of slots 0 to 9 of one
word after another, the latched word first, then those popped; after H*C_PIX + 1 cycles it has ended with C.BLANK, has popped
exactly WPR words, and keeps the last of them in the latch. -/
def Obligations.CgenLine : Prop :=
  ∀ s : State, Clean s → s.cfg.cfgOk = true → s.smEn.getLsbD 2 = true → s.cgen.phase = .pixel →
    s.cgen.px = BitVec.ofNat 32 s.cfg.H → s.cgen.osrn = 0 → s.cfg.WPR ≤ s.cgen.fifo.length →
    (∀ q r, q < s.cfg.H → r < s.cfg.C_PIX →
      ∃ t, runAgents (List.replicate (q * s.cfg.C_PIX + r + 1) .cgen) s = some t ∧
        t.cgen.color = slotOf (displayedWord s.cgen (q / 10)) (q % 10)) ∧
    ∃ t, runAgents (List.replicate (s.cfg.H * s.cfg.C_PIX + 1) .cgen) s = some t ∧
      t = { s with cgen := t.cgen } ∧ t.cgen.phase = .waitb ∧ t.cgen.color = 0 ∧ t.cgen.px = 0 ∧ t.cgen.osrn = 0 ∧
      t.cgen.fifo = s.cgen.fifo.drop s.cfg.WPR ∧ t.cgen.next = displayedWord s.cgen s.cfg.WPR

/-- R112, R139: where row y starts with the latch holding the framebuffer word before the row's first (mod N) and the FIFO the row's own
words, as the stream law of R132 leaves them, every pixel x of the row shows the colour of the field XLATE(x, y) names, the field
get_pixel reads; and the latch then holds the word before the next row's first. -/
def Obligations.RowShowsTranslatedPixels : Prop :=
  ∀ (s : State) (y : Nat), Clean s → s.cfg.cfgOk = true → s.smEn.getLsbD 2 = true → s.cgen.phase = .pixel →
    s.cgen.px = BitVec.ofNat 32 s.cfg.H → s.cgen.osrn = 0 → y < s.cfg.V →
    s.cgen.next = fbWord s ((y * s.cfg.WPR + s.cfg.N - 1) % s.cfg.N) →
    s.cgen.fifo.take s.cfg.WPR = (List.range s.cfg.WPR).map (fun m => fbWord s (y * s.cfg.WPR + m)) →
    (∀ x, x < s.cfg.H → ∃ t r, runAgents (List.replicate (x * s.cfg.C_PIX + 1) .cgen) s = some t ∧
      xlate s.cfg x y = .ok r ∧ t.cgen.color.setWidth 32 = pixelOf (memRead s.mem r.addr.toNat) r.p) ∧
    ∃ t, runAgents (List.replicate (s.cfg.H * s.cfg.C_PIX + 1) .cgen) s = some t ∧ t.cgen.phase = .waitb ∧
      t.cgen.fifo = s.cgen.fifo.drop s.cfg.WPR ∧ t.cgen.next = fbWord s (((y + 1) * s.cfg.WPR + s.cfg.N - 1) % s.cfg.N)

/-! ### The bus and the host's accesses -/

/-- R150, R59: HOST.LDW: its term; a memory word, or a register's value, bound to the NAME, and nothing else changed; another width
refused with REF_WIDTH. -/
def Obligations.HostLoad : Prop :=
  (∀ t : Term, t.op = 0x00 → decode (.term t) = .ok (.hostLdw t.a t.width t.name)) ∧
  ∀ (s : State) (a : Word) (n : Name), Clean s →
    (∀ w, w ≠ 4 → Refuses (.hostLdw a w n) s .width) ∧
    (IsMemAddr s.cfg a → ∃ t, exec (.hostLdw a 4 n) s = .next t ∧
      t = { s with host := { s.host with names := t.host.names, ret := .word (memRead s.mem a.toNat) } } ∧
      (∀ m, lookupName t.host.names m = if m = n then some (memRead s.mem a.toNat) else lookupName s.host.names m)) ∧
    (∀ r v, IsRegAddr s.cfg a r → Returns (readInstr r) s v → ∃ t, exec (.hostLdw a 4 n) s = .next t ∧
      t = { s with host := { s.host with names := t.host.names, ret := .word v } } ∧
      (∀ m, lookupName t.host.names m = if m = n then some v else lookupName s.host.names m))

/-- R151, R58, R60, R61: HOST.STW: its term; a memory word is written, little-endian, reads back, and every byte outside it reads as
before, nothing else changed; a write to a register's address is the register's write operation; another width refused. -/
def Obligations.HostStore : Prop :=
  (∀ t : Term, t.op = 0x01 → decode (.term t) = .ok (.hostStw t.a t.v t.width)) ∧
  ∀ (s : State) (a v : Word), Clean s →
    (∀ w, w ≠ 4 → Refuses (.hostStw a v w) s .width) ∧
    (IsMemAddr s.cfg a → ∃ t, exec (.hostStw a v 4) s = .next t ∧ t = { s with mem := t.mem } ∧
      memRead t.mem a.toNat = v ∧
      (∀ k, k < 4 → readByte t.mem (a.toNat + k) = (v >>> (8 * k)).setWidth 8) ∧
      (∀ b, b < a.toNat ∨ a.toNat + 4 ≤ b → readByte t.mem b = readByte s.mem b)) ∧
    (∀ r, IsRegAddr s.cfg a r → exec (.hostStw a v 4) s = exec (writeInstr v r) s)

/-- R59, R62, R184, R190: the faults of a host access: misaligned first, then an unmapped offset of the window or an address outside both
regions, each with the address recorded and nothing else changed. -/
def Obligations.HostAccessFaults : Prop :=
  ∀ (s : State) (a v : Word) (n : Name), Clean s →
    (a.toNat % 4 ≠ 0 → Faults (.hostLdw a 4 n) s (.misaligned a) ∧ Faults (.hostStw a v 4) s (.misaligned a)) ∧
    (a.toNat % 4 = 0 → InWindow s.cfg a → (∀ r, a.toNat ≠ s.cfg.BLK_BASE + (regOffset r).toNat) →
      Faults (.hostLdw a 4 n) s (.unmapped a) ∧ Faults (.hostStw a v 4) s (.unmapped a)) ∧
    (a.toNat % 4 = 0 → ¬ InWindow s.cfg a → ¬ (s.cfg.MEM_BASE ≤ a.toNat ∧ a.toNat + 4 ≤ s.cfg.MEM_BASE + s.cfg.MEM_SIZE) →
      Faults (.hostLdw a 4 n) s (.unmapped a) ∧ Faults (.hostStw a v 4) s (.unmapped a)) ∧
    (∀ r, IsRegAddr s.cfg a r → r = .cgenTxf ∨ r = .chanAbort → Faults (.hostLdw a 4 n) s (.access (regOffset r)))

/-- R184, R185: whatever operation runs, if it records a fault it changes nothing else, and if it records a refusal it performs
nothing. -/
def Obligations.FaultLeavesNoOtherTrace : Prop :=
  ∀ (i : Instr) (s t : State), exec i s = .next t →
    (∀ f, t.faultRec = some f → t = { s with faultRec := some f }) ∧
    (∀ r, t.refusedRec = some r → t = { s with refusedRec := some r })

/-- R60, R65, R70: whatever operation runs, every byte outside the word it stores to reads as before; an operation that stores to no
memory word leaves every byte. -/
def Obligations.MemoryFrame : Prop :=
  ∀ (i : Instr) (s t : State), s.cfg.cfgOk = true → exec i s = .next t → ∀ b : Nat,
    (match storesTo i s with
      | some a => b < a ∨ a + 4 ≤ b
      | none => True) →
    readByte t.mem b = readByte s.mem b

/-! ### The DMA -/

/-- R117, R118, R124, R125: a channel has an enabled operation exactly where its transfer condition holds and nothing is recorded, and
DMA.XFER of it is performed exactly there. -/
def Obligations.TransferWhenReady : Prop :=
  CodeIs 0x80 (.dmaXfer .ch0) ∧ CodeIs 0x88 (.dmaXfer .ch1) ∧
  ∀ (s : State) (c : Chan), (chan s c).ctrl.treqSel = 2 ∨ (chan s c).ctrl.treqSel = 0x3F →
    (agentEnabled (.dma c) s = true ↔ Clean s ∧ TransferCondition c s) ∧
    RunsExactlyWhen (.dmaXfer c) s (Clean s ∧ TransferCondition c s)

/-- R119, R120: a transfer that is not the run's last: the word read, from memory or from a register, is written, to memory or to a register
with that write's effect (R58); each address moves on by 4 (mod 2^32) where its increment bit is set, from the address the transfer
used, REMAIN counts down, and nothing else changes. A write of the channel's own READ_ADDR or WRITE_ADDR is overwritten; a write that
aborts the channel ends the step. (That a word is moved whatever DATA_SIZE is, and that the fields are read after the write, for a
write to the channel's own control word, are the model's reading, log entries 10 and 11.) -/
def Obligations.TransferMovesOneWord : Prop :=
  ∀ (s : State) (c : Chan), Clean s → TransferCondition c s →
    let ra := (chan s c).readAddr
    let wa := (chan s c).writeAddr
    let moved (u : State) : State := setChan c { chan u c with
      readAddr := if (chan u c).ctrl.incrRead then ra + 4 else ra
      writeAddr := if (chan u c).ctrl.incrWrite then wa + 4 else wa
      remain := (chan u c).remain - 1 } u
    ((chan s c).remain ≠ 1 → IsMemAddr s.cfg ra →
      (IsMemAddr s.cfg wa → exec (.dmaXfer c) s = .next (moved
        { s with mem := memWrite s.mem wa.toNat (memRead s.mem ra.toNat) })) ∧
      (IsRegAddr s.cfg wa .cgenTxf → s.cgen.fifo.length < s.cfg.F → exec (.dmaXfer c) s = .next (moved
        { s with cgen := { s.cgen with fifo := s.cgen.fifo ++ [memRead s.mem ra.toNat] } }))) ∧
    ∀ v, ReadsWord s ra v →
      ((chan s c).remain ≠ 1 → IsRegAddr s.cfg wa (.chReadAddr c) ∨ IsRegAddr s.cfg wa (.chWriteAddr c) →
        exec (.dmaXfer c) s = .next (moved s)) ∧
      (IsRegAddr s.cfg wa .chanAbort → v &&& 0xFFFFFFFC = 0 → v.getLsbD c.toNat = true →
        exec (.dmaXfer c) s = exec (.wrChanAbort v) s) ∧
      ∀ u, WritesWord s wa v u → Clean u →
        ((chan u c).busy = false → exec (.dmaXfer c) s = .next u) ∧
        ((chan u c).busy = true → (chan u c).remain ≠ 1 → exec (.dmaXfer c) s = .next (moved u))

/-- R119, R122, R123: the last transfer of a run, whatever it reads and writes: BUSY and REMAIN are cleared in the same step, and CHAIN_TO
decides what follows: itself nothing; the other channel, if disabled, nothing; if idle and legal, a run of its TRANS_COUNT; if busy, with
a zero count or illegal, the fault of that trigger, with the whole transfer undone. (A CHAIN_TO that names no channel is a fault of
the completing one, the model's choice, log entry 9; the fields are read after the transfer's own write, log entry 11.) -/
def Obligations.LastTransferChains : Prop :=
  ∀ (s : State) (c : Chan), Clean s → TransferCondition c s →
    let ra := (chan s c).readAddr
    let wa := (chan s c).writeAddr
    let completes (u : State) : Prop :=
      let k := chan u c
      let d := chan u c.other
      let done := setChan c { k with
        readAddr := if k.ctrl.incrRead then ra + 4 else ra
        writeAddr := if k.ctrl.incrWrite then wa + 4 else wa
        remain := 0, busy := false } u
      (k.ctrl.chainTo.toNat = c.toNat → exec (.dmaXfer c) s = .next done) ∧
      (k.ctrl.chainTo.toNat = c.other.toNat →
        (d.ctrl.en = false → exec (.dmaXfer c) s = .next done) ∧
        (d.ctrl.en = true → d.busy = true → Faults (.dmaXfer c) s (.triggerBusy c.other)) ∧
        (d.ctrl.en = true → d.busy = false → d.transCount = 0 → Faults (.dmaXfer c) s (.zeroCount c.other)) ∧
        (d.ctrl.en = true → d.busy = false → d.transCount ≠ 0 → ¬ CtrlLegal d.ctrl →
          Faults (.dmaXfer c) s (.badCtrl c.other)) ∧
        (d.ctrl.en = true → d.busy = false → d.transCount ≠ 0 → CtrlLegal d.ctrl →
          exec (.dmaXfer c) s = .next (setChan c.other { d with remain := d.transCount, busy := true } done))) ∧
      (1 < k.ctrl.chainTo.toNat → Faults (.dmaXfer c) s (.badCtrl c))
    ((chan s c).remain = 1 → IsMemAddr s.cfg ra → IsMemAddr s.cfg wa →
      completes { s with mem := memWrite s.mem wa.toNat (memRead s.mem ra.toNat) }) ∧
    ((chan s c).remain = 1 → IsMemAddr s.cfg ra → IsRegAddr s.cfg wa .cgenTxf → s.cgen.fifo.length < s.cfg.F →
      completes { s with cgen := { s.cgen with fifo := s.cgen.fifo ++ [memRead s.mem ra.toNat] } }) ∧
    ∀ v u, ReadsWord s ra v → WritesWord s wa v u → Clean u → (chan u c).busy = true → (chan u c).remain = 1 → completes u

/-- R119, R190, R184: a transfer's faults: the read's first (misaligned, unmapped inside the window or outside both regions, a write-only
register), then the write's (misaligned, unmapped, a read-only register, the full FIFO port, and whatever a register's write operation
faults with), and nothing else changes. -/
def Obligations.TransferFaults : Prop :=
  ∀ (s : State) (c : Chan), Clean s → TransferCondition c s →
    let ra := (chan s c).readAddr
    let wa := (chan s c).writeAddr
    let unmapped (a : Word) : Prop := a.toNat % 4 = 0 ∧
      ((InWindow s.cfg a ∧ ∀ r, a.toNat ≠ s.cfg.BLK_BASE + (regOffset r).toNat) ∨
        (¬ InWindow s.cfg a ∧ ¬ (s.cfg.MEM_BASE ≤ a.toNat ∧ a.toNat + 4 ≤ s.cfg.MEM_BASE + s.cfg.MEM_SIZE)))
    (ra.toNat % 4 ≠ 0 → Faults (.dmaXfer c) s (.misaligned ra)) ∧
    (unmapped ra → Faults (.dmaXfer c) s (.unmapped ra)) ∧
    (IsRegAddr s.cfg ra .cgenTxf → Faults (.dmaXfer c) s (.access 0x010)) ∧
    (IsRegAddr s.cfg ra .chanAbort → Faults (.dmaXfer c) s (.access 0x180)) ∧
    ∀ v, ReadsWord s ra v →
      (wa.toNat % 4 ≠ 0 → Faults (.dmaXfer c) s (.misaligned wa)) ∧
      (unmapped wa → Faults (.dmaXfer c) s (.unmapped wa)) ∧
      (IsRegAddr s.cfg wa .seqFstat → Faults (.dmaXfer c) s (.access 0x008)) ∧
      (∀ d, IsRegAddr s.cfg wa (.chTransRemain d) → Faults (.dmaXfer c) s (.access (regOffset (.chTransRemain d)))) ∧
      (IsRegAddr s.cfg wa .cgenTxf → s.cgen.fifo.length = s.cfg.F → Faults (.dmaXfer c) s (.fifoOverflow v)) ∧
      (∀ u, WritesWord s wa v u → ¬ Clean u → exec (.dmaXfer c) s = .next u)

/-- R130, R129: the control channel's one transfer: the base address it reads goes to CH0_READ_ADDR_TRIG, which sets the data
channel's read address and starts its run of N words in the same step in which the control channel completes. -/
def Obligations.ControlTransferRearms : Prop :=
  ∀ s : State, Clean s → s.cfg.cfgOk = true → DataConfigured s → ControlConfigured s → Arming s →
    exec (.dmaXfer .ch1) s = .next { s with
      ch0 := { s.ch0 with readAddr := memRead s.mem s.cfg.BASEPTR_ADDR, remain := BitVec.ofNat 32 s.cfg.N, busy := true }
      ch1 := { s.ch1 with remain := 0, busy := false } }

/-- R121: a trigger: ignored with EN = 0; else the faults of a busy channel, a zero count and an illegal control word, in that order;
else a run of TRANS_COUNT transfers starts, with the addresses kept. -/
def Obligations.TriggerStartsRun : Prop :=
  CodeIs 0x81 (.dmaTrigger .ch0) ∧ CodeIs 0x89 (.dmaTrigger .ch1) ∧
  ∀ (s : State) (c : Chan), Clean s →
    let k := chan s c
    (k.ctrl.en = false → exec (.dmaTrigger c) s = .next s) ∧
    (k.ctrl.en = true → k.busy = true → Faults (.dmaTrigger c) s (.triggerBusy c)) ∧
    (k.ctrl.en = true → k.busy = false → k.transCount = 0 → Faults (.dmaTrigger c) s (.zeroCount c)) ∧
    (k.ctrl.en = true → k.busy = false → k.transCount ≠ 0 → ¬ CtrlLegal k.ctrl → Faults (.dmaTrigger c) s (.badCtrl c)) ∧
    (k.ctrl.en = true → k.busy = false → k.transCount ≠ 0 → CtrlLegal k.ctrl →
      exec (.dmaTrigger c) s = .next (setChan c { k with remain := k.transCount, busy := true } s))

/-- R126, R176: an abort clears EN, BUSY and REMAIN of its channel and nothing else, busy or not; a write to CHAN_ABORT aborts the
channels whose bits are set, both in one step, and faults on a reserved bit. -/
def Obligations.AbortStopsChannels : Prop :=
  CodeIs 0x82 (.dmaAbort .ch0) ∧ CodeIs 0x8A (.dmaAbort .ch1) ∧
  ∀ s : State, Clean s →
    let off (k : Channel) : Channel := { k with ctrl := { k.ctrl with en := false }, busy := false, remain := 0 }
    exec (.dmaAbort .ch0) s = .next { s with ch0 := off s.ch0 } ∧
    exec (.dmaAbort .ch1) s = .next { s with ch1 := off s.ch1 } ∧
    ∀ v : Word,
      (v &&& 0xFFFFFFFC ≠ 0 → Faults (.wrChanAbort v) s (.reserved 0x180 v)) ∧
      (v &&& 0xFFFFFFFC = 0 → exec (.wrChanAbort v) s = .next { s with
        ch0 := if v.getLsbD 0 then off s.ch0 else s.ch0
        ch1 := if v.getLsbD 1 then off s.ch1 else s.ch1 })

/-- R130, R134: while the loop runs, every operation of any agent that does not write a channel register, CHAN_ABORT or the base-pointer
word keeps it in one of its two states, Arming or Streaming, with the data channel at framebuffer word N - REMAIN. -/
def Obligations.LoopStaysArmedOrStreaming : Prop :=
  ∀ (i : Instr) (s t : State), LoopInv s → loopSafe s.cfg i = true → exec i s = .next t → LoopInv t

/-- R131, R132: from Streaming, k transfers of the data channel (as many as the pass has left and the FIFO has room for) push the next
k framebuffer words, in order, and change nothing else but the channel, which arms the control channel after the pass's last. -/
def Obligations.StreamPushesFramebufferInOrder : Prop :=
  ∀ (s : State) (k : Nat), Clean s → LoopInv s → Streaming s → k ≤ s.ch0.remain.toNat →
    s.cgen.fifo.length + k ≤ s.cfg.F →
    let first := s.cfg.N - s.ch0.remain.toNat
    ∃ t, runAgents (List.replicate k (.dma .ch0)) s = some t ∧
      t = { s with ch0 := t.ch0, ch1 := t.ch1, cgen := { s.cgen with
        fifo := s.cgen.fifo ++ (List.range k).map (fun m => fbWord s (first + m)) } } ∧
      (k < s.ch0.remain.toNat → Streaming t ∧ t.ch0.remain = s.ch0.remain - BitVec.ofNat 32 k) ∧
      (k = s.ch0.remain.toNat → Arming t)

/-- R52, R127: HIGH_PRIORITY restricts no run: whatever its two values, the same agents are enabled. -/
def Obligations.HighPriorityRestrictsNothing : Prop :=
  ∀ (s : State) (b0 b1 : Bool) (a : Agent),
    agentEnabled a { s with ch0 := { s.ch0 with ctrl := { s.ch0.ctrl with highPriority := b0 } }
                            ch1 := { s.ch1 with ctrl := { s.ch1.ctrl with highPriority := b1 } } } = agentEnabled a s

/-! ### The address translator and the pixel operations -/

/-- R136: PX.XLATE: its term; inside the raster the word index (one behind, wrapping to N - 1), the bit offset and the byte address, and
nothing else changed; outside it FLT_PIXEL_RANGE. -/
def Obligations.TranslatePixel : Prop :=
  (∀ t : Term, t.op = 0xA0 → decode (.term t) = .ok (.pxXlate t.x t.y)) ∧
  ∀ (s : State) (x y : Nat), Clean s →
    let n := y * s.cfg.H * 3 + x * 3
    let k := if n / 30 = 0 then s.cfg.N - 1 else n / 30 - 1
    (x < s.cfg.H → y < s.cfg.V → exec (.pxXlate x y) s = .next { s with host := { s.host with
      ret := .pixel k (n % 30) (BitVec.ofNat 32 (s.cfg.FB_BASE + 4 * k)) } }) ∧
    (s.cfg.H ≤ x ∨ s.cfg.V ≤ y → Faults (.pxXlate x y) s (.pixelRange x y))

/-- R137: the closed form of the translation: the word index is (y*WPR + x div 10) - 1 mod N and the bit offset 3*(x mod 10). -/
def Obligations.TranslationClosedForm : Prop :=
  ∀ (p : Params) (x y : Nat), p.cfgOk = true → x < p.H → y < p.V →
    ∃ r, xlate p x y = .ok r ∧ y * p.WPR + x / 10 < p.N ∧ r.k = (y * p.WPR + x / 10 + p.N - 1) % p.N ∧ r.k < p.N ∧
      r.p = 3 * (x % 10) ∧ r.addr.toNat = p.FB_BASE + 4 * r.k

/-- R138: the translation is a bijection from the raster onto the slots of the framebuffer words: distinct pixels have distinct slots,
and every slot of every word is some pixel's. -/
def Obligations.TranslationIsBijection : Prop :=
  ∀ p : Params, p.cfgOk = true →
    (∀ x y x' y' r r', xlate p x y = .ok r → xlate p x' y' = .ok r' → r.k = r'.k → r.p = r'.p → x = x' ∧ y = y') ∧
    (∀ k i, k < p.N → i < 10 → ∃ x y r, x < p.H ∧ y < p.V ∧ xlate p x y = .ok r ∧ r.k = k ∧ r.p = 3 * i)

/-- R140: one row down is WPR words on, except from row 0 in the first word group, where the word index goes from N - 1 to WPR - 1; the
bit offset does not depend on the row. -/
def Obligations.TranslationRowStride : Prop :=
  ∀ (p : Params) (x y : Nat), p.cfgOk = true → x < p.H → y + 1 < p.V →
    ∃ r r', xlate p x y = .ok r ∧ xlate p x (y + 1) = .ok r' ∧ r'.p = r.p ∧
      (if y = 0 ∧ x < 10 then r.k = p.N - 1 ∧ r'.k = p.WPR - 1 else r'.k = r.k + p.WPR)

/-- R142, R81, R77: PX.MASK: its term; the mask c * 0x09249249 is returned, holds c in each of the ten slots and 0 in bits 31 and 30;
c of 8 or more is refused with REF_COLOR. -/
def Obligations.TilingMask : Prop :=
  (∀ t : Term, t.op = 0xA1 → decode (.term t) = .ok (.pxMask t.col)) ∧
  ∀ (s : State) (c : Nat), Clean s →
    (c < 8 → ∃ m : Word, Returns (.pxMask c) s m ∧ m.toNat = c * 0x09249249 ∧
      (∀ i, i < 10 → (m.extractLsb' (3 * i) 3).toNat = c) ∧ m.getLsbD 30 = false ∧ m.getLsbD 31 = false) ∧
    (8 ≤ c → Refuses (.pxMask c) s .color)

/-- R143, R144, R145: the first host operation of each pixel operation: PX.SET reads the pixel's word and leaves the store of the merged
word to come, PX.GET binds the pixel's field to the NAME, PX.FILL stores the mask to framebuffer word 0 and leaves the other
N - 1 stores to come, in order; PX.SET and PX.FILL refuse a colour of 8 or more, before any fault; PX.SET and PX.GET fault outside
the raster. (That one step performs one host operation of the expansion is the model's, log entry 15.) -/
def Obligations.PixelOperationFirstAccess : Prop :=
  ∀ (s : State) (x y c : Nat) (n : Name), Clean s → s.cfg.cfgOk = true →
    (8 ≤ c → Refuses (.pxSet x y c) s .color ∧ Refuses (.pxFill c) s .color) ∧
    (s.cfg.H ≤ x ∨ s.cfg.V ≤ y →
      (c < 8 → Faults (.pxSet x y c) s (.pixelRange x y)) ∧ Faults (.pxGet x y n) s (.pixelRange x y)) ∧
    (∀ r, x < s.cfg.H → y < s.cfg.V → xlate s.cfg x y = .ok r →
      (c < 8 → exec (.pxSet x y c) s = .next { s with host := { s.host with
        pending := { addr := r.addr
                     value := (fbWord s r.k &&& ~~~((7 : Word) <<< r.p)) ||| (BitVec.ofNat 32 c <<< r.p) } ::
          s.host.pending } }) ∧
      (∃ t, exec (.pxGet x y n) s = .next t ∧
        t = { s with host := { s.host with names := t.host.names, ret := .word ((fbWord s r.k >>> r.p) &&& 7) } } ∧
        (∀ m, lookupName t.host.names m =
          if m = n then some ((fbWord s r.k >>> r.p) &&& 7) else lookupName s.host.names m))) ∧
    (c < 8 → exec (.pxFill c) s = .next { s with
      mem := memWrite s.mem s.cfg.FB_BASE (BitVec.ofNat 32 (c * 0x09249249))
      host := { s.host with pending :=
        (List.range (s.cfg.N - 1)).map (fun k =>
          { addr := BitVec.ofNat 32 (s.cfg.FB_BASE + 4 * (k + 1)), value := BitVec.ofNat 32 (c * 0x09249249) }) ++
        s.host.pending } })

/-- R146, R149: a set_pixel(x, y, c) followed by a get_pixel(x', y') of the same host, with no other write between: the get reads c
where it is the same pixel, and what it would have read before the set for every other pixel of the raster. -/
def Obligations.SetPixelThenGetPixel : Prop :=
  ∀ (s : State) (x y x' y' c : Nat) (n : Name) (rest : List Line), s.cfg.cfgOk = true →
    HostReady s [.setPixel x y c, .getPixel x' y' n] rest → x < s.cfg.H → y < s.cfg.V → x' < s.cfg.H → y' < s.cfg.V → c < 8 →
    ∃ t r, runAgents [.host, .host, .host] s = some t ∧ HostReady t [] rest ∧ xlate s.cfg x' y' = .ok r ∧
      lookupName t.host.names n =
        some (if x' = x ∧ y' = y then BitVec.ofNat 32 c else (fbWord s r.k >>> r.p) &&& 7)

/-- R148, R77, R143: set_pixel twice leaves memory as once; the bits of the word outside the pixel's field, bits 31 and 30 among them, and
every byte outside the word are unchanged. -/
def Obligations.SetPixelIdempotent : Prop :=
  ∀ (s : State) (x y c : Nat) (rest : List Line), s.cfg.cfgOk = true →
    HostReady s [.setPixel x y c, .setPixel x y c] rest → x < s.cfg.H → y < s.cfg.V → c < 8 →
    ∃ t u r, runAgents [.host, .host] s = some t ∧ runAgents [.host, .host] t = some u ∧ HostReady u [] rest ∧
      u.mem = t.mem ∧ xlate s.cfg x y = .ok r ∧
      (∀ j, j < 32 → j < r.p ∨ r.p + 3 ≤ j → (fbWord t r.k).getLsbD j = (fbWord s r.k).getLsbD j) ∧
      (∀ b, b < s.cfg.FB_BASE + 4 * r.k ∨ s.cfg.FB_BASE + 4 * r.k + 4 ≤ b → readByte t.mem b = readByte s.mem b)

/-- R145, R147: fill_all(c) of the host, run with no other agent stepping: N host operations write the mask to every framebuffer word and
to no byte outside, and get_pixel of every pixel of the raster then returns c. -/
def Obligations.FillAllPaintsEveryPixel : Prop :=
  ∀ (s : State) (c : Nat) (rest : List Line), s.cfg.cfgOk = true → HostReady s [.fillAll c] rest → c < 8 →
    ∃ t, runAgents (List.replicate s.cfg.N .host) s = some t ∧ HostReady t [] rest ∧
      (∀ k, k < s.cfg.N → (fbWord t k).toNat = c * 0x09249249) ∧
      (∀ b, b < s.cfg.FB_BASE ∨ s.cfg.FB_BASE + 4 * s.cfg.N ≤ b → readByte t.mem b = readByte s.mem b) ∧
      (∀ (x y : Nat) (n : Name), x < s.cfg.H → y < s.cfg.V → ∃ u, exec (.pxGet x y n) t = .next u ∧
        u.host.ret = .word (BitVec.ofNat 32 c) ∧ lookupName u.host.names n = some (BitVec.ofNat 32 c))

/-! ### The register operations -/

/-- R154 to R156, R158 to R163, R153, R65: each register read returns its word and changes nothing. -/
def Obligations.RegisterReads : Prop :=
  ∀ (s : State) (c : Chan), Clean s →
    let k := chan s c
    let level := s.cgen.fifo.length
    let bit (b : Bool) (j : Nat) : Word := if b then (1 : Word) <<< j else 0
    let ctrl := bit k.busy 24 ||| k.ctrl.treqSel.setWidth 32 <<< 15 ||| k.ctrl.chainTo.setWidth 32 <<< 11 |||
      bit k.ctrl.incrWrite 5 ||| bit k.ctrl.incrRead 4 ||| k.ctrl.dataSize.setWidth 32 <<< 2 |||
      bit k.ctrl.highPriority 1 ||| bit k.ctrl.en 0
    Returns .rdSeqCtrl s (s.smEn.setWidth 32) ∧
    Returns .rdSeqFlags s (bit s.flagB 1 ||| bit s.flagA 0) ∧
    Returns .rdSeqFstat s (bit (decide (level = 0)) 9 ||| bit (decide (level = s.cfg.F)) 8 ||| BitVec.ofNat 32 level) ∧
    Returns (.rdChReadAddr c) s k.readAddr ∧ Returns (.rdChWriteAddr c) s k.writeAddr ∧
    Returns (.rdChTransCount c) s k.transCount ∧ Returns (.rdChCtrlTrig c) s ctrl ∧ Returns (.rdChCtrl c) s ctrl ∧
    Returns (.rdChReadAddrTrig c) s k.readAddr ∧ Returns (.rdChTransRemain c) s k.remain

/-- R157, R164, R167, R175: reads of the write-only registers and writes of the read-only ones record FLT_ACCESS with the offset, and
change nothing else. -/
def Obligations.AccessFaults : Prop :=
  ∀ (s : State) (v : Word), Clean s →
    Faults .rdCgenTxf s (.access 0x010) ∧ Faults .rdChanAbort s (.access 0x180) ∧
    Faults (.wrSeqFstat v) s (.access 0x008) ∧
    Faults (.wrChTransRemain .ch0 v) s (.access 0x118) ∧ Faults (.wrChTransRemain .ch1 v) s (.access 0x158)

/-- R165, R28, R29, R30: a write to SEQ_CTRL restarts the units its bits 6:4 select (CGEN with some draw in C_NEXT; the model counts its
draws) and then sets the enables to its bits 2:0, flags, channels and the other units untouched; a reserved bit faults. -/
def Obligations.WriteSeqCtrl : Prop :=
  ∀ (s : State) (v : Word), Clean s →
    (v &&& 0xFFFFFF88 ≠ 0 → Faults (.wrSeqCtrl v) s (.reserved 0x000 v)) ∧
    (v &&& 0xFFFFFF88 = 0 → ∃ (draw : Word) (count : Nat), exec (.wrSeqCtrl v) s = .next { s with
      hgen := if v.getLsbD 4 then { phase := .ap, cnt := BitVec.ofNat 32 s.cfg.H_AP, hsync := true } else s.hgen
      vgen := if v.getLsbD 5 then { phase := .vis, cnt := BitVec.ofNat 32 s.cfg.V, vsync := true } else s.vgen
      cgen := if v.getLsbD 6 then { phase := .waitb, px := 0, osr := 0, osrn := 0, next := draw, dw := 0, color := 0,
                                    fifo := [] } else s.cgen
      draws := count
      smEn := v.extractLsb' 0 3 })

/-- R166, R168: a write to SEQ_FLAGS clears the flags its bits 1:0 select and sets none, a reserved bit faults; a write to CGEN_TXF pushes
the word, whether CGEN is enabled or not, and faults FLT_FIFO_OVERFLOW with the FIFO full. -/
def Obligations.WriteFlagsAndFifo : Prop :=
  ∀ (s : State) (v : Word), Clean s →
    (v &&& 0xFFFFFFFC ≠ 0 → Faults (.wrSeqFlags v) s (.reserved 0x004 v)) ∧
    (v &&& 0xFFFFFFFC = 0 → exec (.wrSeqFlags v) s = .next { s with
      flagA := if v.getLsbD 0 then false else s.flagA
      flagB := if v.getLsbD 1 then false else s.flagB }) ∧
    (s.cgen.fifo.length < s.cfg.F → exec (.wrCgenTxf v) s = .next { s with
      cgen := { s.cgen with fifo := s.cgen.fifo ++ [v] } }) ∧
    (s.cgen.fifo.length = s.cfg.F → Faults (.wrCgenTxf v) s (.fifoOverflow v))

/-- R169 to R172: the writes of a channel's registers that never trigger: each sets its own field, busy or not, and nothing else; CTRL
stores every field, legal or not, BUSY excepted, and faults on a reserved bit. -/
def Obligations.WriteChannelRegisters : Prop :=
  ∀ (s : State) (c : Chan) (v : Word), Clean s →
    exec (.wrChReadAddr c v) s = .next (setChan c { chan s c with readAddr := v } s) ∧
    exec (.wrChWriteAddr c v) s = .next (setChan c { chan s c with writeAddr := v } s) ∧
    exec (.wrChTransCount c v) s = .next (setChan c { chan s c with transCount := v } s) ∧
    (v &&& 0xFEE007C0 ≠ 0 → ∀ o, (c = .ch0 → o = 0x110) → (c = .ch1 → o = 0x150) → Faults (.wrChCtrl c v) s (.reserved o v)) ∧
    (v &&& 0xFEE007C0 = 0 → exec (.wrChCtrl c v) s = .next (setChan c { chan s c with ctrl :=
      { en := v.getLsbD 0, highPriority := v.getLsbD 1, dataSize := v.extractLsb' 2 2, incrRead := v.getLsbD 4
        incrWrite := v.getLsbD 5, chainTo := v.extractLsb' 11 4, treqSel := v.extractLsb' 15 6 } } s))

/-- R47, R83, R172: the control word reads back as written: after a write that has no reserved bit set, CHc_CTRL reads the written value
with bit 24 the channel's BUSY. -/
def Obligations.ControlWordReadsBack : Prop :=
  ∀ (s t : State) (c : Chan) (v : Word), Clean s → v &&& 0xFEE007C0 = 0 → exec (.wrChCtrl c v) s = .next t →
    Returns (.rdChCtrl c) t (if (chan s c).busy then v ||| 0x01000000 else v &&& 0xFEFFFFFF)

/-- R173, R174, R48: the two writes that trigger. CHc_CTRL_TRIG stores the fields and, with EN written 1, starts a run;
CHc_READ_ADDR_TRIG sets READ_ADDR and starts a run of an enabled channel from it; a busy channel, a zero count or an illegal
control word faults, and the write itself is undone too. (The offset recorded for a reserved bit is the model's reading, log
entry 12.) -/
def Obligations.TriggerWrites : Prop :=
  ∀ (s : State) (c : Chan) (v : Word), Clean s →
    let outcome (i : Instr) (k : Channel) : Prop :=
      (k.ctrl.en = false → exec i s = .next (setChan c k s)) ∧
      (k.ctrl.en = true → k.busy = true → Faults i s (.triggerBusy c)) ∧
      (k.ctrl.en = true → k.busy = false → k.transCount = 0 → Faults i s (.zeroCount c)) ∧
      (k.ctrl.en = true → k.busy = false → k.transCount ≠ 0 → ¬ CtrlLegal k.ctrl → Faults i s (.badCtrl c)) ∧
      (k.ctrl.en = true → k.busy = false → k.transCount ≠ 0 → CtrlLegal k.ctrl →
        exec i s = .next (setChan c { k with remain := k.transCount, busy := true } s))
    outcome (.wrChReadAddrTrig c v) { chan s c with readAddr := v } ∧
    (v &&& 0xFEE007C0 = 0 → outcome (.wrChCtrlTrig c v) { chan s c with ctrl :=
      { en := v.getLsbD 0, highPriority := v.getLsbD 1, dataSize := v.extractLsb' 2 2, incrRead := v.getLsbD 4
        incrWrite := v.getLsbD 5, chainTo := v.extractLsb' 11 4, treqSel := v.extractLsb' 15 6 } }) ∧
    (v &&& 0xFEE007C0 ≠ 0 → ∀ o, (c = .ch0 → o = 0x10C) → (c = .ch1 → o = 0x14C) →
      Faults (.wrChCtrlTrig c v) s (.reserved o v))

/-! ### The lifecycle -/

/-- R177, R178, R180: the first host operation of START and of STOP: START, refused with REF_STATE unless the block is stopped, stores
FB_BASE to the base-pointer word and leaves eleven stores to come; STOP aborts both channels and leaves the disabling store to come.
(That one step performs one host operation of the expansion is the model's, log entry 15.) -/
def Obligations.LifecycleFirstWrite : Prop :=
  CodeIs 0xC0 .sysStart ∧ CodeIs 0xC1 .sysStop ∧
  ∀ s : State, Clean s → s.cfg.cfgOk = true →
    let p := s.cfg
    let reg (o : Nat) (v : Word) : Store := { addr := BitVec.ofNat 32 (p.BLK_BASE + o), value := v }
    let off (k : Channel) : Channel := { k with ctrl := { k.ctrl with en := false }, busy := false, remain := 0 }
    (s.smEn ≠ 0 ∨ s.ch0.busy = true ∨ s.ch1.busy = true → Refuses .sysStart s .state) ∧
    (s.smEn = 0 → s.ch0.busy = false → s.ch1.busy = false → exec .sysStart s = .next { s with
      mem := memWrite s.mem p.BASEPTR_ADDR (BitVec.ofNat 32 p.FB_BASE)
      host := { s.host with pending := [
        reg 0x100 (BitVec.ofNat 32 p.FB_BASE), reg 0x104 (BitVec.ofNat 32 (p.BLK_BASE + 0x010)),
        reg 0x108 (BitVec.ofNat 32 p.N), reg 0x110 0x0001081B, reg 0x140 (BitVec.ofNat 32 p.BASEPTR_ADDR),
        reg 0x144 (BitVec.ofNat 32 (p.BLK_BASE + 0x114)), reg 0x148 1, reg 0x004 0x3, reg 0x000 0x70,
        reg 0x14C 0x001F8809, reg 0x000 0x7] ++ s.host.pending } }) ∧
    exec .sysStop s = .next { s with
      ch0 := off s.ch0, ch1 := off s.ch1
      host := { s.host with pending := reg 0x000 0x0 :: s.host.pending } }

/-- R178, R179, R128, R129: the twelve host operations of START from a stopped block, run with no other agent stepping between: the three
units enabled in their initial states, both flags 0, both channels configured, the control channel armed, the base-pointer word
holding FB_BASE, and the loop invariant established; memory is otherwise as before. (The draw in C_NEXT is the model's free value,
log entry 7.) -/
def Obligations.StartArmsTheLoop : Prop :=
  ∀ (s : State) (rest : List Line), BlockInv s → HostReady s [.start] rest → s.smEn = 0 → s.ch0.busy = false →
    s.ch1.busy = false →
    ∃ t, runAgents (List.replicate 12 .host) s = some t ∧ HostReady t [] rest ∧ t.cfg = s.cfg ∧ t.smEn = 0b111 ∧
      t.hgen = initHGen s.cfg ∧ t.vgen = initVGen s.cfg ∧ t.cgen = initCGen (Config.latchDraw s.draws) ∧
      t.flagA = false ∧ t.flagB = false ∧ t.ch0.readAddr = BitVec.ofNat 32 s.cfg.FB_BASE ∧ Arming t ∧ LoopInv t ∧
      (∀ b, b < s.cfg.BASEPTR_ADDR ∨ s.cfg.BASEPTR_ADDR + 4 ≤ b → readByte t.mem b = readByte s.mem b)

/-- R180, R215, R161: STOP, run with no other agent stepping between, aborts both channels and then disables the three units; outputs,
flags, FIFO, memory and the channels' other registers keep their values, and after a START the channels read as disabled. -/
def Obligations.StopFreezesTheBlock : Prop :=
  ∀ (s : State) (rest : List Line), s.cfg.cfgOk = true → HostReady s [.stop] rest →
    let off (k : Channel) : Channel := { k with ctrl := { k.ctrl with en := false }, busy := false, remain := 0 }
    ∃ t, runAgents [.host, .host] s = some t ∧
      t = { s with ch0 := off s.ch0, ch1 := off s.ch1, smEn := 0, host := { s.host with prog := rest } } ∧
      (s.ch0.ctrl = ctrlOfWord 0x0001081B → s.ch1.ctrl = ctrlOfWord 0x001F8809 →
        Returns (.rdChCtrl .ch0) t 0x0001081A ∧ Returns (.rdChCtrl .ch1) t 0x001F8808)
end

