-- ==== Sys2Proof/Laws/Decode.lean ====
section
/-! SUPPORT. The encoding tables: no two rows overlap, every register's offset decodes to the register, and the tables answer one
register, or one operation, for a code (R84, R85). -/

namespace Sys2Proof

/-- Two rows of the OP8 table match no common code. -/
def op8Apart (r q : Op8Row) : Bool := r.pattern &&& r.mask &&& q.mask != q.pattern &&& r.mask &&& q.mask

/-- Two rows of the register table match no common offset. -/
def regApart (r q : RegRow) : Bool := r.pattern &&& r.mask &&& q.mask != q.pattern &&& r.mask &&& q.mask

/-- The OP8 table is unambiguous: no two rows overlap (R85). -/
theorem op8Table_disjoint : op8Table.Pairwise fun r q => op8Apart r q = true := by decide

/-- The register-offset table is unambiguous: no two rows overlap (R84). -/
theorem regTable_disjoint : regTable.Pairwise fun r q => regApart r q = true := by decide

/-- Every row of the OP8 table matches its own pattern, with no bit outside its mask. -/
theorem op8Table_patterns : op8Table.all (fun r => r.pattern &&& r.mask == r.pattern) = true := by decide

/-- Every row of the register table matches its own pattern, with no bit outside its mask. -/
theorem regTable_patterns : regTable.all (fun r => r.pattern &&& r.mask == r.pattern) = true := by decide

/-- The offset of a register decodes to the register (R84). -/
@[simp] theorem regAt_regOffset (r : Reg) : regAt (regOffset r) = some r := by
  cases r <;> first | decide | (rename_i c; cases c <;> decide)

/-- A register's offset is a multiple of 4 below 0x200 (R37). -/
theorem regOffset_aligned (r : Reg) : (regOffset r).toNat % 4 = 0 := by
  cases r <;> first | decide | (rename_i c; cases c <;> decide)

/-- An offset that decodes to a register is that register's own (R84). -/
theorem regOffset_of_regAt : ∀ (o : BitVec 9) (r : Reg), regAt o = some r → regOffset r = o := by
  have h : ∀ o : BitVec 9, (match regAt o with
      | some r => decide (regOffset r = o)
      | none => true) = true := by decide +kernel
  intro o r hr
  have := h o
  rw [hr] at this
  simpa using this

end Sys2Proof
end

