-- ==== Sys2Proof/Laws/State.lean ====
section
/-! SUPPORT. What each named update of the state does to each field: one lemma a field, so that no proof unfolds a record update. -/

namespace Sys2Proof.Machine

/-! raiseA -/

@[simp] theorem raiseA_cfg (s : State) : (raiseA s).cfg = s.cfg := rfl
@[simp] theorem raiseA_hgen (s : State) : (raiseA s).hgen = s.hgen := rfl
@[simp] theorem raiseA_vgen (s : State) : (raiseA s).vgen = s.vgen := rfl
@[simp] theorem raiseA_cgen (s : State) : (raiseA s).cgen = s.cgen := rfl
@[simp] theorem raiseA_flagA (s : State) : (raiseA s).flagA = true := rfl
@[simp] theorem raiseA_flagB (s : State) : (raiseA s).flagB = s.flagB := rfl
@[simp] theorem raiseA_smEn (s : State) : (raiseA s).smEn = s.smEn := rfl
@[simp] theorem raiseA_ch0 (s : State) : (raiseA s).ch0 = s.ch0 := rfl
@[simp] theorem raiseA_ch1 (s : State) : (raiseA s).ch1 = s.ch1 := rfl
@[simp] theorem raiseA_mem (s : State) : (raiseA s).mem = s.mem := rfl
@[simp] theorem raiseA_faultRec (s : State) : (raiseA s).faultRec = s.faultRec := rfl
@[simp] theorem raiseA_refusedRec (s : State) : (raiseA s).refusedRec = s.refusedRec := rfl
@[simp] theorem raiseA_host (s : State) : (raiseA s).host = s.host := rfl
@[simp] theorem raiseA_sched (s : State) : (raiseA s).sched = s.sched := rfl
@[simp] theorem raiseA_tick (s : State) : (raiseA s).tick = s.tick := rfl
@[simp] theorem raiseA_draws (s : State) : (raiseA s).draws = s.draws := rfl

/-! clearA -/

@[simp] theorem clearA_cfg (s : State) : (clearA s).cfg = s.cfg := rfl
@[simp] theorem clearA_hgen (s : State) : (clearA s).hgen = s.hgen := rfl
@[simp] theorem clearA_vgen (s : State) : (clearA s).vgen = s.vgen := rfl
@[simp] theorem clearA_cgen (s : State) : (clearA s).cgen = s.cgen := rfl
@[simp] theorem clearA_flagA (s : State) : (clearA s).flagA = false := rfl
@[simp] theorem clearA_flagB (s : State) : (clearA s).flagB = s.flagB := rfl
@[simp] theorem clearA_smEn (s : State) : (clearA s).smEn = s.smEn := rfl
@[simp] theorem clearA_ch0 (s : State) : (clearA s).ch0 = s.ch0 := rfl
@[simp] theorem clearA_ch1 (s : State) : (clearA s).ch1 = s.ch1 := rfl
@[simp] theorem clearA_mem (s : State) : (clearA s).mem = s.mem := rfl
@[simp] theorem clearA_faultRec (s : State) : (clearA s).faultRec = s.faultRec := rfl
@[simp] theorem clearA_refusedRec (s : State) : (clearA s).refusedRec = s.refusedRec := rfl
@[simp] theorem clearA_host (s : State) : (clearA s).host = s.host := rfl
@[simp] theorem clearA_sched (s : State) : (clearA s).sched = s.sched := rfl
@[simp] theorem clearA_tick (s : State) : (clearA s).tick = s.tick := rfl
@[simp] theorem clearA_draws (s : State) : (clearA s).draws = s.draws := rfl

/-! raiseB -/

@[simp] theorem raiseB_cfg (s : State) : (raiseB s).cfg = s.cfg := rfl
@[simp] theorem raiseB_hgen (s : State) : (raiseB s).hgen = s.hgen := rfl
@[simp] theorem raiseB_vgen (s : State) : (raiseB s).vgen = s.vgen := rfl
@[simp] theorem raiseB_cgen (s : State) : (raiseB s).cgen = s.cgen := rfl
@[simp] theorem raiseB_flagA (s : State) : (raiseB s).flagA = s.flagA := rfl
@[simp] theorem raiseB_flagB (s : State) : (raiseB s).flagB = true := rfl
@[simp] theorem raiseB_smEn (s : State) : (raiseB s).smEn = s.smEn := rfl
@[simp] theorem raiseB_ch0 (s : State) : (raiseB s).ch0 = s.ch0 := rfl
@[simp] theorem raiseB_ch1 (s : State) : (raiseB s).ch1 = s.ch1 := rfl
@[simp] theorem raiseB_mem (s : State) : (raiseB s).mem = s.mem := rfl
@[simp] theorem raiseB_faultRec (s : State) : (raiseB s).faultRec = s.faultRec := rfl
@[simp] theorem raiseB_refusedRec (s : State) : (raiseB s).refusedRec = s.refusedRec := rfl
@[simp] theorem raiseB_host (s : State) : (raiseB s).host = s.host := rfl
@[simp] theorem raiseB_sched (s : State) : (raiseB s).sched = s.sched := rfl
@[simp] theorem raiseB_tick (s : State) : (raiseB s).tick = s.tick := rfl
@[simp] theorem raiseB_draws (s : State) : (raiseB s).draws = s.draws := rfl

/-! clearB -/

@[simp] theorem clearB_cfg (s : State) : (clearB s).cfg = s.cfg := rfl
@[simp] theorem clearB_hgen (s : State) : (clearB s).hgen = s.hgen := rfl
@[simp] theorem clearB_vgen (s : State) : (clearB s).vgen = s.vgen := rfl
@[simp] theorem clearB_cgen (s : State) : (clearB s).cgen = s.cgen := rfl
@[simp] theorem clearB_flagA (s : State) : (clearB s).flagA = s.flagA := rfl
@[simp] theorem clearB_flagB (s : State) : (clearB s).flagB = false := rfl
@[simp] theorem clearB_smEn (s : State) : (clearB s).smEn = s.smEn := rfl
@[simp] theorem clearB_ch0 (s : State) : (clearB s).ch0 = s.ch0 := rfl
@[simp] theorem clearB_ch1 (s : State) : (clearB s).ch1 = s.ch1 := rfl
@[simp] theorem clearB_mem (s : State) : (clearB s).mem = s.mem := rfl
@[simp] theorem clearB_faultRec (s : State) : (clearB s).faultRec = s.faultRec := rfl
@[simp] theorem clearB_refusedRec (s : State) : (clearB s).refusedRec = s.refusedRec := rfl
@[simp] theorem clearB_host (s : State) : (clearB s).host = s.host := rfl
@[simp] theorem clearB_sched (s : State) : (clearB s).sched = s.sched := rfl
@[simp] theorem clearB_tick (s : State) : (clearB s).tick = s.tick := rfl
@[simp] theorem clearB_draws (s : State) : (clearB s).draws = s.draws := rfl

/-! clearFlags -/

@[simp] theorem clearFlags_cfg (v : Word) (s : State) : (clearFlags v s).cfg = s.cfg := rfl
@[simp] theorem clearFlags_hgen (v : Word) (s : State) : (clearFlags v s).hgen = s.hgen := rfl
@[simp] theorem clearFlags_vgen (v : Word) (s : State) : (clearFlags v s).vgen = s.vgen := rfl
@[simp] theorem clearFlags_cgen (v : Word) (s : State) : (clearFlags v s).cgen = s.cgen := rfl
@[simp] theorem clearFlags_flagA (v : Word) (s : State) : (clearFlags v s).flagA = (s.flagA && !v.getLsbD 0) := rfl
@[simp] theorem clearFlags_flagB (v : Word) (s : State) : (clearFlags v s).flagB = (s.flagB && !v.getLsbD 1) := rfl
@[simp] theorem clearFlags_smEn (v : Word) (s : State) : (clearFlags v s).smEn = s.smEn := rfl
@[simp] theorem clearFlags_ch0 (v : Word) (s : State) : (clearFlags v s).ch0 = s.ch0 := rfl
@[simp] theorem clearFlags_ch1 (v : Word) (s : State) : (clearFlags v s).ch1 = s.ch1 := rfl
@[simp] theorem clearFlags_mem (v : Word) (s : State) : (clearFlags v s).mem = s.mem := rfl
@[simp] theorem clearFlags_faultRec (v : Word) (s : State) : (clearFlags v s).faultRec = s.faultRec := rfl
@[simp] theorem clearFlags_refusedRec (v : Word) (s : State) : (clearFlags v s).refusedRec = s.refusedRec := rfl
@[simp] theorem clearFlags_host (v : Word) (s : State) : (clearFlags v s).host = s.host := rfl
@[simp] theorem clearFlags_sched (v : Word) (s : State) : (clearFlags v s).sched = s.sched := rfl
@[simp] theorem clearFlags_tick (v : Word) (s : State) : (clearFlags v s).tick = s.tick := rfl
@[simp] theorem clearFlags_draws (v : Word) (s : State) : (clearFlags v s).draws = s.draws := rfl

/-! recordFault -/

@[simp] theorem recordFault_cfg (f : FaultRec) (s : State) : (recordFault f s).cfg = s.cfg := rfl
@[simp] theorem recordFault_hgen (f : FaultRec) (s : State) : (recordFault f s).hgen = s.hgen := rfl
@[simp] theorem recordFault_vgen (f : FaultRec) (s : State) : (recordFault f s).vgen = s.vgen := rfl
@[simp] theorem recordFault_cgen (f : FaultRec) (s : State) : (recordFault f s).cgen = s.cgen := rfl
@[simp] theorem recordFault_flagA (f : FaultRec) (s : State) : (recordFault f s).flagA = s.flagA := rfl
@[simp] theorem recordFault_flagB (f : FaultRec) (s : State) : (recordFault f s).flagB = s.flagB := rfl
@[simp] theorem recordFault_smEn (f : FaultRec) (s : State) : (recordFault f s).smEn = s.smEn := rfl
@[simp] theorem recordFault_ch0 (f : FaultRec) (s : State) : (recordFault f s).ch0 = s.ch0 := rfl
@[simp] theorem recordFault_ch1 (f : FaultRec) (s : State) : (recordFault f s).ch1 = s.ch1 := rfl
@[simp] theorem recordFault_mem (f : FaultRec) (s : State) : (recordFault f s).mem = s.mem := rfl
@[simp] theorem recordFault_faultRec (f : FaultRec) (s : State) : (recordFault f s).faultRec = some f := rfl
@[simp] theorem recordFault_refusedRec (f : FaultRec) (s : State) : (recordFault f s).refusedRec = s.refusedRec := rfl
@[simp] theorem recordFault_host (f : FaultRec) (s : State) : (recordFault f s).host = s.host := rfl
@[simp] theorem recordFault_sched (f : FaultRec) (s : State) : (recordFault f s).sched = s.sched := rfl
@[simp] theorem recordFault_tick (f : FaultRec) (s : State) : (recordFault f s).tick = s.tick := rfl
@[simp] theorem recordFault_draws (f : FaultRec) (s : State) : (recordFault f s).draws = s.draws := rfl

/-! recordRefusal -/

@[simp] theorem recordRefusal_cfg (r : RefusalRec) (s : State) : (recordRefusal r s).cfg = s.cfg := rfl
@[simp] theorem recordRefusal_hgen (r : RefusalRec) (s : State) : (recordRefusal r s).hgen = s.hgen := rfl
@[simp] theorem recordRefusal_vgen (r : RefusalRec) (s : State) : (recordRefusal r s).vgen = s.vgen := rfl
@[simp] theorem recordRefusal_cgen (r : RefusalRec) (s : State) : (recordRefusal r s).cgen = s.cgen := rfl
@[simp] theorem recordRefusal_flagA (r : RefusalRec) (s : State) : (recordRefusal r s).flagA = s.flagA := rfl
@[simp] theorem recordRefusal_flagB (r : RefusalRec) (s : State) : (recordRefusal r s).flagB = s.flagB := rfl
@[simp] theorem recordRefusal_smEn (r : RefusalRec) (s : State) : (recordRefusal r s).smEn = s.smEn := rfl
@[simp] theorem recordRefusal_ch0 (r : RefusalRec) (s : State) : (recordRefusal r s).ch0 = s.ch0 := rfl
@[simp] theorem recordRefusal_ch1 (r : RefusalRec) (s : State) : (recordRefusal r s).ch1 = s.ch1 := rfl
@[simp] theorem recordRefusal_mem (r : RefusalRec) (s : State) : (recordRefusal r s).mem = s.mem := rfl
@[simp] theorem recordRefusal_faultRec (r : RefusalRec) (s : State) : (recordRefusal r s).faultRec = s.faultRec := rfl
@[simp] theorem recordRefusal_refusedRec (r : RefusalRec) (s : State) : (recordRefusal r s).refusedRec = some r := rfl
@[simp] theorem recordRefusal_host (r : RefusalRec) (s : State) : (recordRefusal r s).host = s.host := rfl
@[simp] theorem recordRefusal_sched (r : RefusalRec) (s : State) : (recordRefusal r s).sched = s.sched := rfl
@[simp] theorem recordRefusal_tick (r : RefusalRec) (s : State) : (recordRefusal r s).tick = s.tick := rfl
@[simp] theorem recordRefusal_draws (r : RefusalRec) (s : State) : (recordRefusal r s).draws = s.draws := rfl

/-! withRet -/

@[simp] theorem withRet_cfg (r : Ret) (s : State) : (withRet r s).cfg = s.cfg := rfl
@[simp] theorem withRet_hgen (r : Ret) (s : State) : (withRet r s).hgen = s.hgen := rfl
@[simp] theorem withRet_vgen (r : Ret) (s : State) : (withRet r s).vgen = s.vgen := rfl
@[simp] theorem withRet_cgen (r : Ret) (s : State) : (withRet r s).cgen = s.cgen := rfl
@[simp] theorem withRet_flagA (r : Ret) (s : State) : (withRet r s).flagA = s.flagA := rfl
@[simp] theorem withRet_flagB (r : Ret) (s : State) : (withRet r s).flagB = s.flagB := rfl
@[simp] theorem withRet_smEn (r : Ret) (s : State) : (withRet r s).smEn = s.smEn := rfl
@[simp] theorem withRet_ch0 (r : Ret) (s : State) : (withRet r s).ch0 = s.ch0 := rfl
@[simp] theorem withRet_ch1 (r : Ret) (s : State) : (withRet r s).ch1 = s.ch1 := rfl
@[simp] theorem withRet_mem (r : Ret) (s : State) : (withRet r s).mem = s.mem := rfl
@[simp] theorem withRet_faultRec (r : Ret) (s : State) : (withRet r s).faultRec = s.faultRec := rfl
@[simp] theorem withRet_refusedRec (r : Ret) (s : State) : (withRet r s).refusedRec = s.refusedRec := rfl
@[simp] theorem withRet_host (r : Ret) (s : State) : (withRet r s).host = { s.host with ret := r } := rfl
@[simp] theorem withRet_sched (r : Ret) (s : State) : (withRet r s).sched = s.sched := rfl
@[simp] theorem withRet_tick (r : Ret) (s : State) : (withRet r s).tick = s.tick := rfl
@[simp] theorem withRet_draws (r : Ret) (s : State) : (withRet r s).draws = s.draws := rfl

/-! restartH -/

@[simp] theorem restartH_cfg (s : State) : (restartH s).cfg = s.cfg := rfl
@[simp] theorem restartH_hgen (s : State) : (restartH s).hgen = initHGen s.cfg := rfl
@[simp] theorem restartH_vgen (s : State) : (restartH s).vgen = s.vgen := rfl
@[simp] theorem restartH_cgen (s : State) : (restartH s).cgen = s.cgen := rfl
@[simp] theorem restartH_flagA (s : State) : (restartH s).flagA = s.flagA := rfl
@[simp] theorem restartH_flagB (s : State) : (restartH s).flagB = s.flagB := rfl
@[simp] theorem restartH_smEn (s : State) : (restartH s).smEn = s.smEn := rfl
@[simp] theorem restartH_ch0 (s : State) : (restartH s).ch0 = s.ch0 := rfl
@[simp] theorem restartH_ch1 (s : State) : (restartH s).ch1 = s.ch1 := rfl
@[simp] theorem restartH_mem (s : State) : (restartH s).mem = s.mem := rfl
@[simp] theorem restartH_faultRec (s : State) : (restartH s).faultRec = s.faultRec := rfl
@[simp] theorem restartH_refusedRec (s : State) : (restartH s).refusedRec = s.refusedRec := rfl
@[simp] theorem restartH_host (s : State) : (restartH s).host = s.host := rfl
@[simp] theorem restartH_sched (s : State) : (restartH s).sched = s.sched := rfl
@[simp] theorem restartH_tick (s : State) : (restartH s).tick = s.tick := rfl
@[simp] theorem restartH_draws (s : State) : (restartH s).draws = s.draws := rfl

/-! restartV -/

@[simp] theorem restartV_cfg (s : State) : (restartV s).cfg = s.cfg := rfl
@[simp] theorem restartV_hgen (s : State) : (restartV s).hgen = s.hgen := rfl
@[simp] theorem restartV_vgen (s : State) : (restartV s).vgen = initVGen s.cfg := rfl
@[simp] theorem restartV_cgen (s : State) : (restartV s).cgen = s.cgen := rfl
@[simp] theorem restartV_flagA (s : State) : (restartV s).flagA = s.flagA := rfl
@[simp] theorem restartV_flagB (s : State) : (restartV s).flagB = s.flagB := rfl
@[simp] theorem restartV_smEn (s : State) : (restartV s).smEn = s.smEn := rfl
@[simp] theorem restartV_ch0 (s : State) : (restartV s).ch0 = s.ch0 := rfl
@[simp] theorem restartV_ch1 (s : State) : (restartV s).ch1 = s.ch1 := rfl
@[simp] theorem restartV_mem (s : State) : (restartV s).mem = s.mem := rfl
@[simp] theorem restartV_faultRec (s : State) : (restartV s).faultRec = s.faultRec := rfl
@[simp] theorem restartV_refusedRec (s : State) : (restartV s).refusedRec = s.refusedRec := rfl
@[simp] theorem restartV_host (s : State) : (restartV s).host = s.host := rfl
@[simp] theorem restartV_sched (s : State) : (restartV s).sched = s.sched := rfl
@[simp] theorem restartV_tick (s : State) : (restartV s).tick = s.tick := rfl
@[simp] theorem restartV_draws (s : State) : (restartV s).draws = s.draws := rfl

/-! restartC -/

@[simp] theorem restartC_cfg (s : State) : (restartC s).cfg = s.cfg := rfl
@[simp] theorem restartC_hgen (s : State) : (restartC s).hgen = s.hgen := rfl
@[simp] theorem restartC_vgen (s : State) : (restartC s).vgen = s.vgen := rfl
@[simp] theorem restartC_cgen (s : State) : (restartC s).cgen = initCGen (Config.latchDraw s.draws) := rfl
@[simp] theorem restartC_flagA (s : State) : (restartC s).flagA = s.flagA := rfl
@[simp] theorem restartC_flagB (s : State) : (restartC s).flagB = s.flagB := rfl
@[simp] theorem restartC_smEn (s : State) : (restartC s).smEn = s.smEn := rfl
@[simp] theorem restartC_ch0 (s : State) : (restartC s).ch0 = s.ch0 := rfl
@[simp] theorem restartC_ch1 (s : State) : (restartC s).ch1 = s.ch1 := rfl
@[simp] theorem restartC_mem (s : State) : (restartC s).mem = s.mem := rfl
@[simp] theorem restartC_faultRec (s : State) : (restartC s).faultRec = s.faultRec := rfl
@[simp] theorem restartC_refusedRec (s : State) : (restartC s).refusedRec = s.refusedRec := rfl
@[simp] theorem restartC_host (s : State) : (restartC s).host = s.host := rfl
@[simp] theorem restartC_sched (s : State) : (restartC s).sched = s.sched := rfl
@[simp] theorem restartC_tick (s : State) : (restartC s).tick = s.tick := rfl
@[simp] theorem restartC_draws (s : State) : (restartC s).draws = s.draws + 1 := rfl

/-! bindResult -/

@[simp] theorem bindResult_cfg (n : Name) (v : Word) (s : State) : (bindResult n v s).cfg = s.cfg := rfl
@[simp] theorem bindResult_hgen (n : Name) (v : Word) (s : State) : (bindResult n v s).hgen = s.hgen := rfl
@[simp] theorem bindResult_vgen (n : Name) (v : Word) (s : State) : (bindResult n v s).vgen = s.vgen := rfl
@[simp] theorem bindResult_cgen (n : Name) (v : Word) (s : State) : (bindResult n v s).cgen = s.cgen := rfl
@[simp] theorem bindResult_flagA (n : Name) (v : Word) (s : State) : (bindResult n v s).flagA = s.flagA := rfl
@[simp] theorem bindResult_flagB (n : Name) (v : Word) (s : State) : (bindResult n v s).flagB = s.flagB := rfl
@[simp] theorem bindResult_smEn (n : Name) (v : Word) (s : State) : (bindResult n v s).smEn = s.smEn := rfl
@[simp] theorem bindResult_ch0 (n : Name) (v : Word) (s : State) : (bindResult n v s).ch0 = s.ch0 := rfl
@[simp] theorem bindResult_ch1 (n : Name) (v : Word) (s : State) : (bindResult n v s).ch1 = s.ch1 := rfl
@[simp] theorem bindResult_mem (n : Name) (v : Word) (s : State) : (bindResult n v s).mem = s.mem := rfl
@[simp] theorem bindResult_faultRec (n : Name) (v : Word) (s : State) : (bindResult n v s).faultRec = s.faultRec := rfl
@[simp] theorem bindResult_refusedRec (n : Name) (v : Word) (s : State) : (bindResult n v s).refusedRec = s.refusedRec := rfl
@[simp] theorem bindResult_host (n : Name) (v : Word) (s : State) : (bindResult n v s).host = { s.host with names := bindName n v s.host.names, ret := .word v } := rfl
@[simp] theorem bindResult_sched (n : Name) (v : Word) (s : State) : (bindResult n v s).sched = s.sched := rfl
@[simp] theorem bindResult_tick (n : Name) (v : Word) (s : State) : (bindResult n v s).tick = s.tick := rfl
@[simp] theorem bindResult_draws (n : Name) (v : Word) (s : State) : (bindResult n v s).draws = s.draws := rfl

/-! setChan -/

@[simp] theorem setChan_cfg (c : Chan) (k : Channel) (s : State) : (setChan c k s).cfg = s.cfg := by cases c <;> rfl
@[simp] theorem setChan_hgen (c : Chan) (k : Channel) (s : State) : (setChan c k s).hgen = s.hgen := by cases c <;> rfl
@[simp] theorem setChan_vgen (c : Chan) (k : Channel) (s : State) : (setChan c k s).vgen = s.vgen := by cases c <;> rfl
@[simp] theorem setChan_cgen (c : Chan) (k : Channel) (s : State) : (setChan c k s).cgen = s.cgen := by cases c <;> rfl
@[simp] theorem setChan_flagA (c : Chan) (k : Channel) (s : State) : (setChan c k s).flagA = s.flagA := by cases c <;> rfl
@[simp] theorem setChan_flagB (c : Chan) (k : Channel) (s : State) : (setChan c k s).flagB = s.flagB := by cases c <;> rfl
@[simp] theorem setChan_smEn (c : Chan) (k : Channel) (s : State) : (setChan c k s).smEn = s.smEn := by cases c <;> rfl
@[simp] theorem setChan_mem (c : Chan) (k : Channel) (s : State) : (setChan c k s).mem = s.mem := by cases c <;> rfl
@[simp] theorem setChan_faultRec (c : Chan) (k : Channel) (s : State) : (setChan c k s).faultRec = s.faultRec := by cases c <;> rfl
@[simp] theorem setChan_refusedRec (c : Chan) (k : Channel) (s : State) : (setChan c k s).refusedRec = s.refusedRec := by cases c <;> rfl
@[simp] theorem setChan_host (c : Chan) (k : Channel) (s : State) : (setChan c k s).host = s.host := by cases c <;> rfl
@[simp] theorem setChan_sched (c : Chan) (k : Channel) (s : State) : (setChan c k s).sched = s.sched := by cases c <;> rfl
@[simp] theorem setChan_tick (c : Chan) (k : Channel) (s : State) : (setChan c k s).tick = s.tick := by cases c <;> rfl
@[simp] theorem setChan_draws (c : Chan) (k : Channel) (s : State) : (setChan c k s).draws = s.draws := by cases c <;> rfl
@[simp] theorem setChan_ch0_ch0 (k : Channel) (s : State) : (setChan .ch0 k s).ch0 = k := rfl
@[simp] theorem setChan_ch0_ch1 (k : Channel) (s : State) : (setChan .ch0 k s).ch1 = s.ch1 := rfl
@[simp] theorem setChan_ch1_ch0 (k : Channel) (s : State) : (setChan .ch1 k s).ch0 = s.ch0 := rfl
@[simp] theorem setChan_ch1_ch1 (k : Channel) (s : State) : (setChan .ch1 k s).ch1 = k := rfl
@[simp] theorem chan_ch0 (s : State) : chan s .ch0 = s.ch0 := rfl
@[simp] theorem chan_ch1 (s : State) : chan s .ch1 = s.ch1 := rfl
@[simp] theorem chan_setChan_same (c : Chan) (k : Channel) (s : State) : chan (setChan c k s) c = k := by cases c <;> rfl
@[simp] theorem chan_setChan_other (c : Chan) (k : Channel) (s : State) : chan (setChan c k s) c.other = chan s c.other := by
  cases c <;> rfl
@[simp] theorem setChan_setChan (c : Chan) (k l : Channel) (s : State) : setChan c k (setChan c l s) = setChan c k s := by
  cases c <;> rfl
@[simp] theorem setChan_chan (c : Chan) (s : State) : setChan c (chan s c) s = s := by cases c <;> rfl

/-- Reading one channel after writing one. -/
theorem chan_setChan (c d : Chan) (k : Channel) (s : State) : chan (setChan c k s) d = if d = c then k else chan s d := by
  cases c <;> cases d <;> rfl

/-! halted -/

@[simp] theorem halted_recordFault (f : FaultRec) (s : State) : halted (recordFault f s) = true := rfl
@[simp] theorem halted_recordRefusal (r : RefusalRec) (s : State) : halted (recordRefusal r s) = true := by
  simp [halted]

/-- Nothing is recorded exactly where neither record is present. -/
theorem halted_eq_false (s : State) : halted s = false ↔ s.faultRec = none ∧ s.refusedRec = none := by
  simp [halted]

end Sys2Proof.Machine
end

