-- ==== Sys2Proof/Laws/Ops.lean ====
section
/-! SUPPORT. What each shared operation can do, said once: an inversion lemma for each ("if it answers, then …"), which later proofs
cite and so never unfold the operation. -/

namespace Sys2Proof.Machine

/-! ### Outcomes -/

/-- A guarded operation answers a next state exactly where it is enabled and answers one. -/
theorem guardOp_next {b : Bool} {o : Host.Outcome State Fault Refusal} {t : State} :
    guardOp b o = .next t ↔ b = true ∧ o = .next t := by
  cases b <;> simp [guardOp]

@[simp] theorem guardOp_true (o : Host.Outcome State Fault Refusal) : guardOp true o = o := rfl

@[simp] theorem guardOp_false (o : Host.Outcome State Fault Refusal) : guardOp false o = .refused .notEnabled := rfl

/-- `commit` always answers a next state: the operation's own, or the state before it with the fault recorded (R184). -/
theorem commit_next {s t : State} {r : Except FaultRec State} :
    commit s r = .next t ↔ r = .ok t ∨ ∃ f, r = .error f ∧ t = recordFault f s := by
  cases r <;> simp [commit, eq_comm]

@[simp] theorem commit_ok (s t : State) : commit s (.ok t) = .next t := rfl

@[simp] theorem commit_error (s : State) (f : FaultRec) : commit s (.error f) = .next (recordFault f s) := rfl

@[simp] theorem returnWord_ok (s : State) (v : Word) : returnWord s (.ok v) = .next (withRet (.word v) s) := rfl

@[simp] theorem returnWord_error (s : State) (f : FaultRec) : returnWord s (.error f) = .next (recordFault f s) := rfl

/-- `returnWord` changes the returned value or the fault record, and nothing else. -/
theorem returnWord_next {s t : State} {r : Except FaultRec Word} (h : returnWord s r = .next t) :
    (∃ v, r = .ok v ∧ t = withRet (.word v) s) ∨ ∃ f, r = .error f ∧ t = recordFault f s := by
  cases r with
  | ok v => exact Or.inl ⟨v, rfl, by simpa using h.symm⟩
  | error f => exact Or.inr ⟨f, rfl, by simpa using h.symm⟩

/-! ### Channels -/

/-- A trigger that does not fault is ignored (EN = 0) or starts a run of a legal, idle channel (R121). -/
theorem trigger_ok {c : Chan} {s t : State} (h : trigger c s = .ok t) :
    ((chan s c).ctrl.en = false ∧ t = s) ∨
    ((chan s c).ctrl.en = true ∧ (chan s c).busy = false ∧ (chan s c).transCount ≠ 0 ∧ ctrlLegal (chan s c).ctrl = true ∧
      t = setChan c { chan s c with remain := (chan s c).transCount, busy := true } s) := by
  simp only [trigger] at h
  split at h
  · rename_i h1
    exact Or.inl ⟨h1, by simpa using h.symm⟩
  · split at h
    · cases h
    · split at h
      · cases h
      · split at h
        · cases h
        · rename_i h1 h2 h3 h4
          exact Or.inr ⟨by simpa using h1, by simpa using h2, h3, by simpa using h4, by simpa using h.symm⟩

/-- A completion clears BUSY, and, where CHAIN_TO names the other channel, triggers it (R122). -/
theorem complete_ok {c : Chan} {s t : State} (h : complete c s = .ok t) :
    ((chan s c).ctrl.chainTo.toNat = c.toNat ∧ t = setChan c { chan s c with busy := false } s) ∨
    ((chan s c).ctrl.chainTo.toNat = c.other.toNat ∧
      trigger c.other (setChan c { chan s c with busy := false } s) = .ok t) := by
  simp only [complete] at h
  split at h
  · rename_i h1
    exact Or.inl ⟨h1, by simpa using h.symm⟩
  · rename_i h1
    generalize hn : (chan s c).ctrl.chainTo.toNat = n at h h1 ⊢
    match n, h with
    | 0, h => cases c <;> simp_all [Chan.toNat, Chan.other, Chan.ofNat?]
    | 1, h => cases c <;> simp_all [Chan.toNat, Chan.other, Chan.ofNat?]
    | n + 2, h => simp [Chan.ofNat?] at h

/-- An abort clears EN, BUSY and REMAIN of its channel (R126). -/
theorem chan_abort_same (c : Chan) (s : State) :
    chan (abort c s) c =
      { chan s c with ctrl := { (chan s c).ctrl with en := false }, busy := false, remain := 0 } := by
  simp [abort]

/-- An abort leaves the other channel alone. -/
theorem chan_abort_other (c : Chan) (s : State) : chan (abort c s) c.other = chan s c.other :=
  chan_setChan_other _ _ _

/-! ### The FIFO and the reserved bits -/

/-- A push that does not fault appends the word below the capacity (R34). -/
theorem pushFifo_ok {v : Word} {s t : State} (h : pushFifo v s = .ok t) :
    fifoLevel s < s.cfg.F ∧ t = { s with cgen := { s.cgen with fifo := s.cgen.fifo ++ [v] } } := by
  unfold pushFifo at h
  split at h
  · rename_i h1
    exact ⟨h1, by simpa using h.symm⟩
  · cases h

/-- A checked write that does not fault has no reserved bit set (R38). -/
theorem checkReserved_ok {o : BitVec 9} {m v : Word} {k : Except FaultRec State} {t : State}
    (h : checkReserved o m v k = .ok t) : v &&& m = 0 ∧ k = .ok t := by
  unfold checkReserved at h
  split at h
  · rename_i h1
    exact ⟨h1, h⟩
  · cases h

/-! ### Register writes -/

/-- The fields of the state that no register write, transfer, restart, trigger, completion or abort touches. -/
structure SameFrame (s t : State) : Prop where
  cfg : t.cfg = s.cfg
  mem : t.mem = s.mem
  faultRec : t.faultRec = s.faultRec
  refusedRec : t.refusedRec = s.refusedRec
  host : t.host = s.host
  sched : t.sched = s.sched
  tick : t.tick = s.tick

theorem SameFrame.refl (s : State) : SameFrame s s := ⟨rfl, rfl, rfl, rfl, rfl, rfl, rfl⟩

theorem SameFrame.trans {s t u : State} (h : SameFrame s t) (k : SameFrame t u) : SameFrame s u :=
  ⟨k.cfg.trans h.cfg, k.mem.trans h.mem, k.faultRec.trans h.faultRec, k.refusedRec.trans h.refusedRec,
    k.host.trans h.host, k.sched.trans h.sched, k.tick.trans h.tick⟩

theorem sameFrame_setChan (c : Chan) (k : Channel) (s : State) : SameFrame s (setChan c k s) := by
  cases c <;> exact ⟨rfl, rfl, rfl, rfl, rfl, rfl, rfl⟩

theorem sameFrame_trigger {c : Chan} {s t : State} (h : trigger c s = .ok t) : SameFrame s t := by
  rcases trigger_ok h with ⟨-, rfl⟩ | ⟨-, -, -, -, rfl⟩
  · exact SameFrame.refl _
  · exact sameFrame_setChan _ _ _

theorem sameFrame_complete {c : Chan} {s t : State} (h : complete c s = .ok t) : SameFrame s t := by
  rcases complete_ok h with ⟨-, rfl⟩ | ⟨-, h⟩
  · exact sameFrame_setChan _ _ _
  · exact (sameFrame_setChan _ _ _).trans (sameFrame_trigger h)

theorem sameFrame_abort (c : Chan) (s : State) : SameFrame s (abort c s) := sameFrame_setChan _ _ _

/-- What a write to SEQ_CTRL leaves: the restarts its value selects, then the new enables (R165). -/
theorem writeSeqCtrl_ok {v : Word} {s t : State} (h : writeSeqCtrl v s = .ok t) :
    v &&& seqCtrlReserved = 0 ∧ SameFrame s t ∧ t.flagA = s.flagA ∧ t.flagB = s.flagB ∧ t.ch0 = s.ch0 ∧ t.ch1 = s.ch1 ∧
    t.smEn = v.extractLsb' 0 3 ∧
    t.hgen = (if v.getLsbD 4 then initHGen s.cfg else s.hgen) ∧
    t.vgen = (if v.getLsbD 5 then initVGen s.cfg else s.vgen) ∧
    t.cgen = (if v.getLsbD 6 then initCGen (Config.latchDraw s.draws) else s.cgen) ∧
    t.draws = (if v.getLsbD 6 then s.draws + 1 else s.draws) := by
  obtain ⟨h1, h2⟩ := checkReserved_ok h
  refine ⟨h1, ?_⟩
  simp only [Except.ok.injEq] at h2
  subst h2
  cases v.getLsbD 4 <;> cases v.getLsbD 5 <;> cases v.getLsbD 6 <;>
    simp [restartH, restartV, restartC] <;> exact ⟨rfl, rfl, rfl, rfl, rfl, rfl, rfl⟩

/-- What a write to a channel's fields, or one that triggers, can change: the channel's own state (R169 to R174). -/
theorem sameFrame_writeReg {v : Word} {s t : State} {r : Reg} (h : writeReg v s r = .ok t) : SameFrame s t := by
  cases r with
  | seqCtrl => exact (writeSeqCtrl_ok h).2.1
  | seqFlags =>
    obtain ⟨-, h2⟩ := checkReserved_ok h
    cases h2
    exact ⟨rfl, rfl, rfl, rfl, rfl, rfl, rfl⟩
  | seqFstat => cases h
  | cgenTxf =>
    obtain ⟨-, rfl⟩ := pushFifo_ok h
    exact ⟨rfl, rfl, rfl, rfl, rfl, rfl, rfl⟩
  | chReadAddr c => cases h; exact sameFrame_setChan _ _ _
  | chWriteAddr c => cases h; exact sameFrame_setChan _ _ _
  | chTransCount c => cases h; exact sameFrame_setChan _ _ _
  | chCtrlTrig c =>
    obtain ⟨-, h2⟩ := checkReserved_ok h
    split at h2
    · exact (sameFrame_setChan _ _ _).trans (sameFrame_trigger h2)
    · cases h2; exact sameFrame_setChan _ _ _
  | chCtrl c =>
    obtain ⟨-, h2⟩ := checkReserved_ok h
    cases h2; exact sameFrame_setChan _ _ _
  | chReadAddrTrig c => exact (sameFrame_setChan _ _ _).trans (sameFrame_trigger h)
  | chTransRemain c => cases h
  | chanAbort =>
    obtain ⟨-, h2⟩ := checkReserved_ok h
    simp only [Except.ok.injEq] at h2
    subst h2
    cases v.getLsbD 0 <;> cases v.getLsbD 1 <;> simp only [Bool.false_eq_true, if_true, if_false]
    · exact SameFrame.refl _
    · exact sameFrame_abort _ _
    · exact sameFrame_abort _ _
    · exact (sameFrame_abort _ _).trans (sameFrame_abort _ _)

/-! ### The bus -/

/-- A bus read that does not fault is an aligned read of a mapped register or of memory (R59). -/
theorem busRead_ok {s : State} {a v : Word} (h : busRead s a = .ok v) :
    aligned a = true ∧
    ((∃ r, inWindow s.cfg a = true ∧ regAt (windowOffset s.cfg a) = some r ∧ readReg s r = .ok v) ∨
     (inWindow s.cfg a = false ∧ inMemory s.cfg a = true ∧ v = memRead s.mem a.toNat)) := by
  unfold busRead at h
  split at h
  · cases h
  · rename_i h1
    refine ⟨by simpa using h1, ?_⟩
    split at h
    · rename_i h2
      split at h
      · rename_i r hr
        exact Or.inl ⟨r, h2, hr, h⟩
      · cases h
    · rename_i h2
      split at h
      · rename_i h3
        exact Or.inr ⟨by simpa using h2, h3, by simpa using h.symm⟩
      · cases h

/-- A bus write that does not fault is an aligned write of a mapped register or of memory (R59). -/
theorem busWrite_ok {s t : State} {a v : Word} (h : busWrite s a v = .ok t) :
    aligned a = true ∧
    ((∃ r, inWindow s.cfg a = true ∧ regAt (windowOffset s.cfg a) = some r ∧ writeReg v s r = .ok t) ∨
     (inWindow s.cfg a = false ∧ inMemory s.cfg a = true ∧ t = { s with mem := memWrite s.mem a.toNat v })) := by
  unfold busWrite at h
  split at h
  · cases h
  · rename_i h1
    refine ⟨by simpa using h1, ?_⟩
    split at h
    · rename_i h2
      split at h
      · rename_i r hr
        exact Or.inl ⟨r, h2, hr, h⟩
      · cases h
    · rename_i h2
      split at h
      · rename_i h3
        exact Or.inr ⟨by simpa using h2, h3, by simpa using h.symm⟩
      · cases h

/-- An aligned read of the memory region, outside the window, reads memory. -/
theorem busRead_memory {s : State} {a : Word} (h1 : aligned a = true) (h2 : inWindow s.cfg a = false)
    (h3 : inMemory s.cfg a = true) : busRead s a = .ok (memRead s.mem a.toNat) := by
  simp [busRead, h1, h2, h3]

/-- An aligned write of the memory region, outside the window, writes memory. -/
theorem busWrite_memory {s : State} {a v : Word} (h1 : aligned a = true) (h2 : inWindow s.cfg a = false)
    (h3 : inMemory s.cfg a = true) : busWrite s a v = .ok { s with mem := memWrite s.mem a.toNat v } := by
  simp [busWrite, h1, h2, h3]

/-- An aligned read of the window is the register's read. -/
theorem busRead_register {s : State} {a : Word} {r : Reg} (h1 : aligned a = true) (h2 : inWindow s.cfg a = true)
    (h3 : regAt (windowOffset s.cfg a) = some r) : busRead s a = readReg s r := by
  simp [busRead, h1, h2, h3]

/-- An aligned write of the window is the register's write. -/
theorem busWrite_register {s : State} {a v : Word} {r : Reg} (h1 : aligned a = true) (h2 : inWindow s.cfg a = true)
    (h3 : regAt (windowOffset s.cfg a) = some r) : busWrite s a v = writeReg v s r := by
  simp [busWrite, h1, h2, h3]

/-! ### Transfers and stores -/

/-- The end of a transfer that does not fault: nothing where the channel was aborted, the moved addresses and the count otherwise, and
a completion where the count reached 0 (R119). -/
theorem finishXfer_ok {c : Chan} {ra wa : Word} {s t : State} (h : finishXfer c ra wa s = .ok t) :
    ((chan s c).busy = false ∧ t = s) ∨
    ((chan s c).busy = true ∧
      let u := setChan c { chan s c with readAddr := advance (chan s c).ctrl.incrRead ra
                                         writeAddr := advance (chan s c).ctrl.incrWrite wa
                                         remain := (chan s c).remain - 1 } s
      (((chan s c).remain - 1 = 0 ∧ complete c u = .ok t) ∨ ((chan s c).remain - 1 ≠ 0 ∧ t = u))) := by
  simp only [finishXfer] at h
  split at h
  · rename_i h1
    exact Or.inl ⟨h1, by simpa using h.symm⟩
  · rename_i h1
    refine Or.inr ⟨by simpa using h1, ?_⟩
    split at h
    · rename_i h2
      exact Or.inl ⟨h2, h⟩
    · rename_i h2
      exact Or.inr ⟨h2, by simpa using h.symm⟩

/-- A transfer that does not fault is a bus read, a bus write of the word read, and the end of a transfer (R119). -/
theorem xfer_ok {c : Chan} {s t : State} (h : xfer c s = .ok t) :
    ∃ v u, busRead s (chan s c).readAddr = .ok v ∧ busWrite s (chan s c).writeAddr v = .ok u ∧
      finishXfer c (chan s c).readAddr (chan s c).writeAddr u = .ok t := by
  unfold xfer at h
  split at h
  · cases h
  · rename_i v hv
    split at h
    · cases h
    · rename_i u hu
      exact ⟨v, u, hv, hu, h⟩

theorem sameFrame_finishXfer {c : Chan} {ra wa : Word} {s t : State} (h : finishXfer c ra wa s = .ok t) :
    SameFrame s t := by
  rcases finishXfer_ok h with ⟨-, rfl⟩ | ⟨-, h⟩
  · exact SameFrame.refl _
  · rcases h with ⟨-, h⟩ | ⟨-, rfl⟩
    · exact (sameFrame_setChan _ _ _).trans (sameFrame_complete h)
    · exact sameFrame_setChan _ _ _

/-- The first store of an expansion is performed and the rest stand before the stores already to come (R90). -/
@[simp] theorem issueStores_cons (st : Store) (rest : List Store) (s : State) :
    issueStores (st :: rest) s =
      commit s (busWrite { s with host := { s.host with pending := rest ++ s.host.pending } } st.addr st.value) := rfl

end Sys2Proof.Machine
end

