-- ==== Sys2Proof/Laws/Cfg.lean ====
section
/-! SUPPORT. What a configuration that passes CFG (R11) gives: the bounds of its parameters, and the addresses of registers, framebuffer
words and the base-pointer word as the bus sees them (R57 to R59, R67, R68). -/

namespace Sys2Proof.Machine

/-- The bounds CFG puts on the parameters, as plain facts about numbers (R11). -/
structure CfgFacts (p : Params) : Prop where
  lines : p.H * 3 % 30 = 0
  h10 : 10 ≤ p.H
  v1 : 1 ≤ p.V
  hap : 1 ≤ p.H_AP ∧ p.H_AP < 2 ^ 32
  hsp : 1 ≤ p.H_SP ∧ p.H_SP < 2 ^ 32
  hbp : 1 ≤ p.H_BP ∧ p.H_BP < 2 ^ 32
  vfp : 1 ≤ p.V_FP ∧ p.V_FP < 2 ^ 32
  vspl : 1 ≤ p.V_SPL ∧ p.V_SPL < 2 ^ 32
  vsph : p.V_SPH < 2 ^ 32
  vbp : 1 ≤ p.V_BP ∧ p.V_BP < 2 ^ 32
  cpix : 1 ≤ p.C_PIX ∧ p.C_PIX < 2 ^ 32
  hmax : p.H < 2 ^ 32
  vmax : p.V < 2 ^ 32
  f : 1 ≤ p.F ∧ p.F ≤ 255
  n : 1 ≤ p.N ∧ p.N < 2 ^ 32
  aligned : p.FB_BASE % 4 = 0 ∧ p.BASEPTR_ADDR % 4 = 0 ∧ p.BLK_BASE % 4 = 0 ∧ p.MEM_BASE % 4 = 0
  fb0 : p.FB_BASE ≠ 0
  fb : p.MEM_BASE ≤ p.FB_BASE ∧ p.FB_BASE + 4 * p.N ≤ p.MEM_BASE + p.MEM_SIZE
  basePtr : p.MEM_BASE ≤ p.BASEPTR_ADDR ∧ p.BASEPTR_ADDR + 4 ≤ p.MEM_BASE + p.MEM_SIZE
  apart : p.FB_BASE + 4 * p.N ≤ p.BASEPTR_ADDR ∨ p.BASEPTR_ADDR + 4 ≤ p.FB_BASE
  regions : p.MEM_BASE + p.MEM_SIZE ≤ p.BLK_BASE ∨ p.BLK_BASE + 0x200 ≤ p.MEM_BASE
  memTop : p.MEM_BASE + p.MEM_SIZE ≤ 2 ^ 32
  blkTop : p.BLK_BASE + 0x200 ≤ 2 ^ 32

/-- A configuration that passes CFG has the bounds of R11. -/
theorem cfgFacts {p : Params} (h : p.cfgOk = true) : CfgFacts p := by
  simp only [Params.cfgOk, Params.cfg1, Params.cfg2, Params.cfg3, Params.cfg4, Params.cfg5, Params.cfg6, Params.cfg7, countOk,
    inside, disjoint, bitsPerPixel, usableBits, Bool.and_eq_true, Bool.or_eq_true, decide_eq_true_eq, beq_iff_eq, bne_iff_ne] at h
  simp only [maxWord, windowSize] at h
  constructor <;> omega

/-- A line is WPR whole words (R10, CFG1). -/
theorem CfgFacts.h_eq {p : Params} (c : CfgFacts p) : p.H = 10 * p.WPR := by
  have := c.lines
  simp only [Params.WPR, bitsPerPixel, usableBits]
  omega

/-- The framebuffer is V lines of WPR words (R10). -/
theorem CfgFacts.n_eq {p : Params} (c : CfgFacts p) : p.N = p.V * p.WPR := by
  have h := c.h_eq
  have : p.H * p.V * 3 = 30 * (p.V * p.WPR) := by rw [h]; ring
  simp only [Params.N, bitsPerPixel, usableBits, this]
  omega

/-- A line has at least one word. -/
theorem CfgFacts.wpr_pos {p : Params} (c : CfgFacts p) : 1 ≤ p.WPR := by
  have := c.h_eq
  have := c.h10
  omega

/-! ### Addresses -/

/-- The address of a register is inside the address space. -/
theorem regAddr_toNat {p : Params} (c : CfgFacts p) (r : Reg) : (regAddr p r).toNat = p.BLK_BASE + (regOffset r).toNat := by
  have h1 := c.blkTop
  have h2 := (regOffset r).isLt
  simp only [regAddr, BitVec.toNat_ofNat]
  omega

/-- An address at a register's offset of an aligned window is aligned, in the window, and decodes to the register (R58). -/
theorem window_address {p : Params} {a : Word} {r : Reg} (hb : p.BLK_BASE % 4 = 0)
    (ha : a.toNat = p.BLK_BASE + (regOffset r).toNat) :
    aligned a = true ∧ inWindow p a = true ∧ regAt (windowOffset p a) = some r := by
  have h1 := (regOffset r).isLt
  have h2 := regOffset_aligned r
  refine ⟨?_, ?_, ?_⟩
  · simp only [aligned, beq_iff_eq]; omega
  · simp only [inWindow, Bool.and_eq_true, decide_eq_true_eq]
    simp only [windowSize]
    omega
  · have : windowOffset p a = regOffset r := by
      apply BitVec.eq_of_toNat_eq
      simp only [windowOffset, BitVec.toNat_ofNat]
      omega
    rw [this, regAt_regOffset]

/-- A bus write to a register's address is the register's write. -/
theorem busWrite_regAddr {p : Params} {s : State} (c : CfgFacts p) (hp : s.cfg = p) (r : Reg) (v : Word) :
    busWrite s (regAddr p r) v = writeReg v s r := by
  subst hp
  obtain ⟨h1, h2, h3⟩ := window_address c.aligned.2.2.1 (regAddr_toNat c r)
  exact busWrite_register h1 h2 h3

/-- A bus read of a register's address is the register's read. -/
theorem busRead_regAddr {p : Params} {s : State} (c : CfgFacts p) (hp : s.cfg = p) (r : Reg) :
    busRead s (regAddr p r) = readReg s r := by
  subst hp
  obtain ⟨h1, h2, h3⟩ := window_address c.aligned.2.2.1 (regAddr_toNat c r)
  exact busRead_register h1 h2 h3

/-- The address of a framebuffer word is inside the address space (R67). -/
theorem fbAddr_toNat {p : Params} (c : CfgFacts p) {k : Nat} (hk : k < p.N) : (fbAddr p k).toNat = p.FB_BASE + 4 * k := by
  have h1 := c.memTop
  have h2 := c.fb
  simp only [fbAddr, BitVec.toNat_ofNat]
  omega

/-- An aligned word of the memory region, as the bus sees it. -/
theorem memory_address {p : Params} (c : CfgFacts p) {a : Word} (h4 : a.toNat % 4 = 0) (h1 : p.MEM_BASE ≤ a.toNat)
    (h2 : a.toNat + 4 ≤ p.MEM_BASE + p.MEM_SIZE) :
    aligned a = true ∧ inWindow p a = false ∧ inMemory p a = true := by
  have h3 := c.regions
  refine ⟨?_, ?_, ?_⟩
  · simp only [aligned, beq_iff_eq]; exact h4
  · simp only [inWindow, Bool.and_eq_false_iff, decide_eq_false_iff_not]
    simp only [windowSize]
    omega
  · simp only [inMemory, Bool.and_eq_true, decide_eq_true_eq]; exact ⟨h1, h2⟩

/-- A framebuffer word is plain aligned memory (CFG6). -/
theorem fbAddr_memory {p : Params} (c : CfgFacts p) {k : Nat} (hk : k < p.N) :
    aligned (fbAddr p k) = true ∧ inWindow p (fbAddr p k) = false ∧ inMemory p (fbAddr p k) = true := by
  have h1 := c.aligned.1
  have h2 := c.fb
  apply memory_address c <;> rw [fbAddr_toNat c hk] <;> omega

/-- The base-pointer word's address is inside the address space (R68). -/
theorem basePtr_toNat {p : Params} (c : CfgFacts p) : (BitVec.ofNat 32 p.BASEPTR_ADDR).toNat = p.BASEPTR_ADDR := by
  have h1 := c.memTop
  have h2 := c.basePtr
  simp only [BitVec.toNat_ofNat]
  omega

/-- The base-pointer word is plain aligned memory (CFG6). -/
theorem basePtr_memory {p : Params} (c : CfgFacts p) :
    aligned (BitVec.ofNat 32 p.BASEPTR_ADDR) = true ∧ inWindow p (BitVec.ofNat 32 p.BASEPTR_ADDR) = false ∧
    inMemory p (BitVec.ofNat 32 p.BASEPTR_ADDR) = true := by
  have h1 := c.aligned.2.1
  have h2 := c.basePtr
  apply memory_address c <;> rw [basePtr_toNat c] <;> omega

/-- A framebuffer word reads as memory. -/
theorem busRead_fbAddr {s : State} (c : CfgFacts s.cfg) {k : Nat} (hk : k < s.cfg.N) :
    busRead s (fbAddr s.cfg k) = .ok (memRead s.mem (s.cfg.FB_BASE + 4 * k)) := by
  obtain ⟨h1, h2, h3⟩ := fbAddr_memory c hk
  rw [busRead_memory h1 h2 h3, fbAddr_toNat c hk]

/-- A framebuffer word is written as memory. -/
theorem busWrite_fbAddr {s : State} {p : Params} (hp : s.cfg = p) (c : CfgFacts p) {k : Nat} (hk : k < p.N) (v : Word) :
    busWrite s (fbAddr p k) v = .ok { s with mem := memWrite s.mem (p.FB_BASE + 4 * k) v } := by
  subst hp
  obtain ⟨h1, h2, h3⟩ := fbAddr_memory c hk
  rw [busWrite_memory h1 h2 h3, fbAddr_toNat c hk]

/-- The base-pointer word reads as memory. -/
theorem busRead_basePtr {s : State} (c : CfgFacts s.cfg) :
    busRead s (BitVec.ofNat 32 s.cfg.BASEPTR_ADDR) = .ok (memRead s.mem s.cfg.BASEPTR_ADDR) := by
  obtain ⟨h1, h2, h3⟩ := basePtr_memory c
  rw [busRead_memory h1 h2 h3, basePtr_toNat c]

/-- The base-pointer word is written as memory. -/
theorem busWrite_basePtr {s : State} {p : Params} (hp : s.cfg = p) (c : CfgFacts p) (v : Word) :
    busWrite s (BitVec.ofNat 32 p.BASEPTR_ADDR) v = .ok { s with mem := memWrite s.mem p.BASEPTR_ADDR v } := by
  subst hp
  obtain ⟨h1, h2, h3⟩ := basePtr_memory c
  rw [busWrite_memory h1 h2 h3, basePtr_toNat c]

end Sys2Proof.Machine
end

