-- ==== Sys2Proof/Laws/Exec.lean ====
section
/-! SUPPORT. What an operation can do, said once for all operations: `Effect` lists every way `exec` can answer a next state, each with
what held before it and the state it leaves, and `exec_effect` says that there is no other. -/

namespace Sys2Proof.Machine

/-- A register read is the read of its register, in a state where nothing is recorded (R153). -/
theorem exec_readInstr {s : State} (h : halted s = false) (r : Reg) :
    exec (readInstr r) s = returnWord s (readReg s r) := by
  cases r <;>
    simp [readInstr, exec, readReg, h, execRdSeqCtrl, execRdSeqFlags, execRdSeqFstat, execRdCgenTxf, execRdChReadAddr,
      execRdChWriteAddr, execRdChTransCount, execRdChCtrlTrig, execRdChCtrl, execRdChReadAddrTrig, execRdChTransRemain,
      execRdChanAbort]

/-- A register write is the write of its register, in a state where nothing is recorded (R58). -/
theorem exec_writeInstr {s : State} (h : halted s = false) (r : Reg) (v : Word) :
    exec (writeInstr v r) s = commit s (writeReg v s r) := by
  cases r <;>
    simp [writeInstr, exec, writeReg, h, execWrSeqCtrl, execWrSeqFlags, execWrSeqFstat, execWrCgenTxf, execWrChReadAddr,
      execWrChWriteAddr, execWrChTransCount, execWrChCtrlTrig, execWrChCtrl, execWrChReadAddrTrig, execWrChTransRemain,
      execWrChanAbort]

/-- The state with the host's stores to come replaced. -/
def withPending (l : List Store) (s : State) : State := { s with host := { s.host with pending := l } }

/-- The ways an operation answers a next state from a state in which nothing is recorded. -/
inductive Effect : Instr → State → State → Prop where
  | fault (i : Instr) (s : State) (f : FaultRec) : Effect i s (recordFault f s)
  | refusal (i : Instr) (s : State) (r : RefusalRec) : Effect i s (recordRefusal r s)
  | hAp (s : State) (h : hgenIn .ap s = true) : Effect .hAp s (hgenCycle true .sp s.cfg.H_SP s)
  | hSp (s : State) (h : hgenIn .sp s = true) : Effect .hSp s (hgenCycle false .bp s.cfg.H_BP s)
  | hBp (s : State) (h : hgenIn .bp s = true) :
      Effect .hBp s (hgenCycle true .ap s.cfg.H_AP (if s.hgen.cnt = 1 then raiseA s else s))
  | vHold (s : State) (h : unitEnabled s 1 = true ∧ s.flagA = false) : Effect .vHold s s
  | vVis (s : State) (h : vgenIn .vis s = true) : Effect .vVis s (raiseB (vgenEvent true .fp s.cfg.V_FP s))
  | vFp (s : State) (h : vgenIn .fp s = true) : Effect .vFp s (vgenEvent true .spl s.cfg.V_SPL s)
  | vSplHigh (s : State) (h : vgenIn .spl s = true) (h2 : s.cfg.V_SPH > 0) :
      Effect .vSpl s (vgenEvent false .sph s.cfg.V_SPH s)
  | vSplBack (s : State) (h : vgenIn .spl s = true) (h2 : ¬ s.cfg.V_SPH > 0) :
      Effect .vSpl s (vgenEvent false .bp s.cfg.V_BP s)
  | vSph (s : State) (h : vgenIn .sph s = true) : Effect .vSph s (vgenEvent true .bp s.cfg.V_BP s)
  | vBp (s : State) (h : vgenIn .bp s = true) : Effect .vBp s (vgenEvent true .vis s.cfg.V s)
  | cWait (s : State) (h : cgenIn .waitb s = true ∧ s.flagB = false) : Effect .cWait s s
  | cTake (s : State) (h : cgenIn .waitb s = true ∧ s.flagB = true) :
      Effect .cTake s { clearB s with cgen := { s.cgen with px := BitVec.ofNat 32 s.cfg.H, phase := .pixel } }
  | cOut (s : State) (h : cgenIn .pixel s = true ∧ canDrive s = true) :
      Effect .cOut s { s with cgen := drivePixel s.cfg.C_PIX (if s.cgen.osrn = 0 then loadWord s.cgen else s.cgen) }
  | cStall (s : State) (h : cgenIn .pixel s = true ∧ canDrive s = false) : Effect .cStall s s
  | cDwell (s : State) (h : cgenIn .dwell s = true) :
      Effect .cDwell s { s with cgen := { s.cgen with
        dw := s.cgen.dw - 1
        phase := if s.cgen.dw - 1 = 0 then (if s.cgen.px = 0 then .blank else .pixel) else .dwell } }
  | cBlank (s : State) (h : cgenIn .blank s = true) :
      Effect .cBlank s { s with cgen := { s.cgen with color := 0, phase := .waitb } }
  | dmaXfer (c : Chan) (s t : State) (h : xferReady c s = true) (hx : xfer c s = .ok t) : Effect (.dmaXfer c) s t
  | dmaTrigger (c : Chan) (s t : State) (hx : trigger c s = .ok t) : Effect (.dmaTrigger c) s t
  | dmaAbort (c : Chan) (s : State) : Effect (.dmaAbort c) s (abort c s)
  | pxXlate (x y : Nat) (s : State) (r : Xlated) (h : xlate s.cfg x y = .ok r) :
      Effect (.pxXlate x y) s (withRet (.pixel r.k r.p r.addr) s)
  | pxMask (c : Nat) (s : State) (h : c < 8) : Effect (.pxMask c) s (withRet (.word (tilingMask c)) s)
  | pxSet (x y c : Nat) (s : State) (r : Xlated) (w : Word) (h : xlate s.cfg x y = .ok r) (hb : busRead s r.addr = .ok w) :
      Effect (.pxSet x y c) s (withPending ({ addr := r.addr, value := withPixel w r.p c } :: s.host.pending) s)
  | pxGet (x y : Nat) (n : Name) (s : State) (r : Xlated) (w : Word) (h : xlate s.cfg x y = .ok r)
      (hb : busRead s r.addr = .ok w) : Effect (.pxGet x y n) s (bindResult n (pixelOf w r.p) s)
  | pxFillNone (c : Nat) (s : State) (h : fillStores s.cfg c = []) : Effect (.pxFill c) s s
  | pxFill (c : Nat) (s t : State) (st : Store) (l : List Store) (h : fillStores s.cfg c = st :: l)
      (hb : busWrite (withPending (l ++ s.host.pending) s) st.addr st.value = .ok t) : Effect (.pxFill c) s t
  | sysStart (s t : State) (h : stopped s = true)
      (hb : busWrite (withPending ((startStores s.cfg).tail ++ s.host.pending) s) (BitVec.ofNat 32 s.cfg.BASEPTR_ADDR)
        (BitVec.ofNat 32 s.cfg.FB_BASE) = .ok t) : Effect .sysStart s t
  | sysStop (s t : State)
      (hb : busWrite (withPending ((stopStores s.cfg).tail ++ s.host.pending) s) (regAddr s.cfg .chanAbort) 0x3 = .ok t) :
      Effect .sysStop s t
  | hostLdw (a : Word) (n : Name) (s : State) (v : Word) (hb : busRead s a = .ok v) :
      Effect (.hostLdw a 4 n) s (bindResult n v s)
  | hostStw (a v : Word) (s t : State) (hb : busWrite s a v = .ok t) : Effect (.hostStw a v 4) s t
  | readReg (r : Reg) (s : State) (v : Word) (h : readReg s r = .ok v) : Effect (readInstr r) s (withRet (.word v) s)
  | writeReg (r : Reg) (v : Word) (s t : State) (h : writeReg v s r = .ok t) : Effect (writeInstr v r) s t

/-- Every operation that answers a next state does so in one of the ways `Effect` lists, from a state in which nothing is recorded. -/
theorem exec_effect {i : Instr} {s t : State} (h : exec i s = .next t) : halted s = false ∧ Effect i s t := by
  have rd : ∀ r, i = readInstr r → halted s = false → Effect i s t := by
    rintro r rfl hh
    rw [exec_readInstr hh] at h
    rcases returnWord_next h with ⟨v, hv, rfl⟩ | ⟨f, -, rfl⟩
    · exact .readReg r s v hv
    · exact .fault _ _ _
  have wr : ∀ r v, i = writeInstr v r → halted s = false → Effect i s t := by
    rintro r v rfl hh
    rw [exec_writeInstr hh] at h
    rcases commit_next.1 h with hv | ⟨f, -, rfl⟩
    · exact .writeReg r v s t hv
    · exact .fault _ _ _
  cases i with
  | hostLdw a w n =>
    simp only [exec, execHostLdw, guardOp_next, Bool.not_eq_true'] at h
    refine ⟨h.1, ?_⟩
    have h2 := h.2
    by_cases hw : w = 4
    · subst hw
      simp only [ne_eq, not_true_eq_false, if_false] at h2
      split at h2 <;> cases h2
      · exact .hostLdw _ _ _ _ ‹_›
      · exact .fault _ _ _
    · rw [if_pos hw] at h2
      cases h2
      exact .refusal _ _ _
  | hostStw a v w =>
    simp only [exec, execHostStw, guardOp_next, Bool.not_eq_true'] at h
    refine ⟨h.1, ?_⟩
    have h2 := h.2
    by_cases hw : w = 4
    · subst hw
      simp only [ne_eq, not_true_eq_false, if_false] at h2
      rcases commit_next.1 h2 with hv | ⟨f, -, rfl⟩
      · exact .hostStw _ _ _ _ hv
      · exact .fault _ _ _
    · rw [if_pos hw] at h2
      cases h2
      exact .refusal _ _ _
  | hAp =>
    simp only [exec, execHAp, guardOp_next] at h
    obtain ⟨h1, h2⟩ := h
    cases h2
    exact ⟨by simp only [hgenIn, Bool.and_eq_true, Bool.not_eq_true'] at h1; exact h1.1.1, .hAp s h1⟩
  | hSp =>
    simp only [exec, execHSp, guardOp_next] at h
    obtain ⟨h1, h2⟩ := h
    cases h2
    exact ⟨by simp only [hgenIn, Bool.and_eq_true, Bool.not_eq_true'] at h1; exact h1.1.1, .hSp s h1⟩
  | hBp =>
    simp only [exec, execHBp, guardOp_next] at h
    obtain ⟨h1, h2⟩ := h
    cases h2
    exact ⟨by simp only [hgenIn, Bool.and_eq_true, Bool.not_eq_true'] at h1; exact h1.1.1, .hBp s h1⟩
  | vHold =>
    simp only [exec, execVHold, guardOp_next, Bool.and_eq_true, Bool.not_eq_true'] at h
    obtain ⟨⟨⟨h1, h2⟩, h3⟩, h4⟩ := h
    cases h4
    exact ⟨h1, .vHold s ⟨h2, h3⟩⟩
  | vVis =>
    simp only [exec, execVVis, guardOp_next] at h
    obtain ⟨h1, h2⟩ := h
    cases h2
    exact ⟨by simp only [vgenIn, Bool.and_eq_true, Bool.not_eq_true'] at h1; exact h1.1.1.1, .vVis s h1⟩
  | vFp =>
    simp only [exec, execVFp, guardOp_next] at h
    obtain ⟨h1, h2⟩ := h
    cases h2
    exact ⟨by simp only [vgenIn, Bool.and_eq_true, Bool.not_eq_true'] at h1; exact h1.1.1.1, .vFp s h1⟩
  | vSpl =>
    simp only [exec, execVSpl, guardOp_next] at h
    obtain ⟨h1, h2⟩ := h
    refine ⟨by simp only [vgenIn, Bool.and_eq_true, Bool.not_eq_true'] at h1; exact h1.1.1.1, ?_⟩
    split at h2 <;> cases h2
    · exact .vSplHigh s h1 ‹_›
    · exact .vSplBack s h1 ‹_›
  | vSph =>
    simp only [exec, execVSph, guardOp_next] at h
    obtain ⟨h1, h2⟩ := h
    cases h2
    exact ⟨by simp only [vgenIn, Bool.and_eq_true, Bool.not_eq_true'] at h1; exact h1.1.1.1, .vSph s h1⟩
  | vBp =>
    simp only [exec, execVBp, guardOp_next] at h
    obtain ⟨h1, h2⟩ := h
    cases h2
    exact ⟨by simp only [vgenIn, Bool.and_eq_true, Bool.not_eq_true'] at h1; exact h1.1.1.1, .vBp s h1⟩
  | cWait =>
    simp only [exec, execCWait, guardOp_next, Bool.and_eq_true, Bool.not_eq_true'] at h
    obtain ⟨⟨h1, h2⟩, h3⟩ := h
    cases h3
    exact ⟨by simp only [cgenIn, Bool.and_eq_true, Bool.not_eq_true'] at h1; exact h1.1.1, .cWait s ⟨h1, h2⟩⟩
  | cTake =>
    simp only [exec, execCTake, guardOp_next, Bool.and_eq_true] at h
    obtain ⟨⟨h1, h2⟩, h3⟩ := h
    cases h3
    exact ⟨by simp only [cgenIn, Bool.and_eq_true, Bool.not_eq_true'] at h1; exact h1.1.1, .cTake s ⟨h1, h2⟩⟩
  | cOut =>
    simp only [exec, execCOut, guardOp_next, Bool.and_eq_true] at h
    obtain ⟨⟨h1, h2⟩, h3⟩ := h
    cases h3
    exact ⟨by simp only [cgenIn, Bool.and_eq_true, Bool.not_eq_true'] at h1; exact h1.1.1, .cOut s ⟨h1, h2⟩⟩
  | cStall =>
    simp only [exec, execCStall, guardOp_next, Bool.and_eq_true, Bool.not_eq_true'] at h
    obtain ⟨⟨h1, h2⟩, h3⟩ := h
    cases h3
    exact ⟨by simp only [cgenIn, Bool.and_eq_true, Bool.not_eq_true'] at h1; exact h1.1.1, .cStall s ⟨h1, h2⟩⟩
  | cDwell =>
    simp only [exec, execCDwell, guardOp_next] at h
    obtain ⟨h1, h2⟩ := h
    cases h2
    exact ⟨by simp only [cgenIn, Bool.and_eq_true, Bool.not_eq_true'] at h1; exact h1.1.1, .cDwell s h1⟩
  | cBlank =>
    simp only [exec, execCBlank, guardOp_next] at h
    obtain ⟨h1, h2⟩ := h
    cases h2
    exact ⟨by simp only [cgenIn, Bool.and_eq_true, Bool.not_eq_true'] at h1; exact h1.1.1, .cBlank s h1⟩
  | dmaXfer c =>
    simp only [exec, execDmaXfer, guardOp_next, Bool.and_eq_true, Bool.not_eq_true'] at h
    refine ⟨h.1.1, ?_⟩
    rcases commit_next.1 h.2 with hv | ⟨f, -, rfl⟩
    · exact .dmaXfer _ _ _ h.1.2 hv
    · exact .fault _ _ _
  | dmaTrigger c =>
    simp only [exec, execDmaTrigger, guardOp_next, Bool.not_eq_true'] at h
    refine ⟨h.1, ?_⟩
    rcases commit_next.1 h.2 with hv | ⟨f, -, rfl⟩
    · exact .dmaTrigger _ _ _ hv
    · exact .fault _ _ _
  | dmaAbort c =>
    simp only [exec, execDmaAbort, guardOp_next, Bool.not_eq_true'] at h
    obtain ⟨h1, h2⟩ := h
    cases h2
    exact ⟨h1, .dmaAbort c s⟩
  | pxXlate x y =>
    simp only [exec, execPxXlate, guardOp_next, Bool.not_eq_true'] at h
    obtain ⟨h1, h2⟩ := h
    refine ⟨h1, ?_⟩
    split at h2 <;> cases h2
    · exact .pxXlate _ _ _ _ ‹_›
    · exact .fault _ _ _
  | pxMask c =>
    simp only [exec, execPxMask, guardOp_next, Bool.not_eq_true'] at h
    obtain ⟨h1, h2⟩ := h
    refine ⟨h1, ?_⟩
    by_cases hc : c ≥ 8
    · rw [if_pos hc] at h2; cases h2; exact .refusal _ _ _
    · rw [if_neg hc] at h2; cases h2; exact .pxMask _ _ (by omega)
  | pxSet x y c =>
    simp only [exec, execPxSet, guardOp_next, Bool.not_eq_true'] at h
    obtain ⟨h1, h2⟩ := h
    refine ⟨h1, ?_⟩
    by_cases hc : c ≥ 8
    · rw [if_pos hc] at h2; cases h2; exact .refusal _ _ _
    · rw [if_neg hc] at h2
      split at h2
      · cases h2; exact .fault _ _ _
      · split at h2 <;> cases h2
        · exact .fault _ _ _
        · exact .pxSet _ _ _ _ _ _ ‹_› ‹_›
  | pxGet x y n =>
    simp only [exec, execPxGet, guardOp_next, Bool.not_eq_true'] at h
    obtain ⟨h1, h2⟩ := h
    refine ⟨h1, ?_⟩
    split at h2
    · cases h2; exact .fault _ _ _
    · split at h2 <;> cases h2
      · exact .fault _ _ _
      · exact .pxGet _ _ _ _ _ _ ‹_› ‹_›
  | pxFill c =>
    simp only [exec, execPxFill, guardOp_next, Bool.not_eq_true'] at h
    obtain ⟨h1, h2⟩ := h
    refine ⟨h1, ?_⟩
    by_cases hc : c ≥ 8
    · rw [if_pos hc] at h2; cases h2; exact .refusal _ _ _
    · rw [if_neg hc] at h2
      cases hf : fillStores s.cfg c with
      | nil => rw [hf] at h2; cases h2; exact .pxFillNone _ _ hf
      | cons st l =>
        rw [hf, issueStores_cons] at h2
        rcases commit_next.1 h2 with hv | ⟨f, -, rfl⟩
        · exact .pxFill _ _ _ _ _ hf hv
        · exact .fault _ _ _
  | sysStart =>
    simp only [exec, execSysStart, guardOp_next, Bool.not_eq_true'] at h
    obtain ⟨h1, h2⟩ := h
    refine ⟨h1, ?_⟩
    by_cases hc : stopped s = false
    · rw [if_pos hc] at h2; cases h2; exact .refusal _ _ _
    · rw [if_neg hc] at h2
      rcases commit_next.1 h2 with hv | ⟨f, -, rfl⟩
      · exact .sysStart _ _ (by simpa using hc) hv
      · exact .fault _ _ _
  | sysStop =>
    simp only [exec, execSysStop, guardOp_next, Bool.not_eq_true'] at h
    obtain ⟨h1, h2⟩ := h
    refine ⟨h1, ?_⟩
    rcases commit_next.1 h2 with hv | ⟨f, -, rfl⟩
    · exact .sysStop _ _ hv
    · exact .fault _ _ _
  | rdSeqCtrl => have hh := (guardOp_next.1 h).1; exact ⟨by simpa using hh, rd .seqCtrl rfl (by simpa using hh)⟩
  | rdSeqFlags => have hh := (guardOp_next.1 h).1; exact ⟨by simpa using hh, rd .seqFlags rfl (by simpa using hh)⟩
  | rdSeqFstat => have hh := (guardOp_next.1 h).1; exact ⟨by simpa using hh, rd .seqFstat rfl (by simpa using hh)⟩
  | rdCgenTxf => have hh := (guardOp_next.1 h).1; exact ⟨by simpa using hh, rd .cgenTxf rfl (by simpa using hh)⟩
  | rdChReadAddr c => have hh := (guardOp_next.1 h).1; exact ⟨by simpa using hh, rd (.chReadAddr c) rfl (by simpa using hh)⟩
  | rdChWriteAddr c => have hh := (guardOp_next.1 h).1; exact ⟨by simpa using hh, rd (.chWriteAddr c) rfl (by simpa using hh)⟩
  | rdChTransCount c => have hh := (guardOp_next.1 h).1; exact ⟨by simpa using hh, rd (.chTransCount c) rfl (by simpa using hh)⟩
  | rdChCtrlTrig c => have hh := (guardOp_next.1 h).1; exact ⟨by simpa using hh, rd (.chCtrlTrig c) rfl (by simpa using hh)⟩
  | rdChCtrl c => have hh := (guardOp_next.1 h).1; exact ⟨by simpa using hh, rd (.chCtrl c) rfl (by simpa using hh)⟩
  | rdChReadAddrTrig c =>
    have hh := (guardOp_next.1 h).1; exact ⟨by simpa using hh, rd (.chReadAddrTrig c) rfl (by simpa using hh)⟩
  | rdChTransRemain c => have hh := (guardOp_next.1 h).1; exact ⟨by simpa using hh, rd (.chTransRemain c) rfl (by simpa using hh)⟩
  | rdChanAbort => have hh := (guardOp_next.1 h).1; exact ⟨by simpa using hh, rd .chanAbort rfl (by simpa using hh)⟩
  | wrSeqCtrl v => have hh := (guardOp_next.1 h).1; exact ⟨by simpa using hh, wr .seqCtrl v rfl (by simpa using hh)⟩
  | wrSeqFlags v => have hh := (guardOp_next.1 h).1; exact ⟨by simpa using hh, wr .seqFlags v rfl (by simpa using hh)⟩
  | wrSeqFstat v => have hh := (guardOp_next.1 h).1; exact ⟨by simpa using hh, wr .seqFstat v rfl (by simpa using hh)⟩
  | wrCgenTxf v => have hh := (guardOp_next.1 h).1; exact ⟨by simpa using hh, wr .cgenTxf v rfl (by simpa using hh)⟩
  | wrChReadAddr c v => have hh := (guardOp_next.1 h).1; exact ⟨by simpa using hh, wr (.chReadAddr c) v rfl (by simpa using hh)⟩
  | wrChWriteAddr c v => have hh := (guardOp_next.1 h).1; exact ⟨by simpa using hh, wr (.chWriteAddr c) v rfl (by simpa using hh)⟩
  | wrChTransCount c v =>
    have hh := (guardOp_next.1 h).1; exact ⟨by simpa using hh, wr (.chTransCount c) v rfl (by simpa using hh)⟩
  | wrChCtrlTrig c v => have hh := (guardOp_next.1 h).1; exact ⟨by simpa using hh, wr (.chCtrlTrig c) v rfl (by simpa using hh)⟩
  | wrChCtrl c v => have hh := (guardOp_next.1 h).1; exact ⟨by simpa using hh, wr (.chCtrl c) v rfl (by simpa using hh)⟩
  | wrChReadAddrTrig c v =>
    have hh := (guardOp_next.1 h).1; exact ⟨by simpa using hh, wr (.chReadAddrTrig c) v rfl (by simpa using hh)⟩
  | wrChTransRemain c v =>
    have hh := (guardOp_next.1 h).1; exact ⟨by simpa using hh, wr (.chTransRemain c) v rfl (by simpa using hh)⟩
  | wrChanAbort v => have hh := (guardOp_next.1 h).1; exact ⟨by simpa using hh, wr .chanAbort v rfl (by simpa using hh)⟩

end Sys2Proof.Machine
end

