-- ==== Sys2Proof/Laws/Bus.lean ====
section
/-! SUPPORT. The words statements use for bus accesses and transfers, tied to the operations that make them. -/

namespace Sys2Proof.Machine

/-- The window as a proposition and as the test the bus makes (R57). -/
theorem inWindow_iff {p : Params} {a : Word} : inWindow p a = true ↔ InWindow p a := by
  simp only [inWindow, Bool.and_eq_true, decide_eq_true_eq]
  simp only [windowSize, InWindow]

/-- A memory word's address passes the bus's tests for memory, and only such an address does (R59). -/
theorem isMemAddr_iff {p : Params} {a : Word} :
    IsMemAddr p a ↔ aligned a = true ∧ inWindow p a = false ∧ inMemory p a = true := by
  simp [IsMemAddr, aligned, ← inWindow_iff, inMemory]

/-- An address of the window at which a register lies is that register's address (R58). -/
theorem isRegAddr_of_regAt {p : Params} {a : Word} {r : Reg} (hb : p.BLK_BASE % 4 = 0) (hw : inWindow p a = true)
    (hr : regAt (windowOffset p a) = some r) : IsRegAddr p a r := by
  refine ⟨hb, ?_⟩
  have h1 := congrArg BitVec.toNat (regOffset_of_regAt _ _ hr)
  have h2 := inWindow_iff.1 hw
  simp only [windowOffset, BitVec.toNat_ofNat, InWindow] at h1 h2
  omega

/-- An offset that is no register's decodes to none. -/
theorem regAt_eq_none {o : BitVec 9} (h : ∀ r, regOffset r ≠ o) : regAt o = none := by
  cases hr : regAt o with
  | none => rfl
  | some r => exact absurd (regOffset_of_regAt _ _ hr) (h r)

/-- A register's read operation returns a word exactly where the register's read gives it (R153). -/
theorem returns_readInstr {s : State} (hc : Clean s) {r : Reg} {v : Word} :
    Returns (readInstr r) s v ↔ readReg s r = .ok v := by
  rw [Returns, exec_readInstr ((halted_eq_false s).2 hc)]
  cases h : readReg s r with
  | ok w =>
    simp only [returnWord, Host.Outcome.next.injEq, Except.ok.injEq]
    constructor
    · intro he
      have := congrArg (fun t => t.host.ret) he
      simpa [withRet] using this
    · rintro rfl
      rfl
  | error f =>
    simp only [returnWord, Host.Outcome.next.injEq, reduceCtorEq, iff_false]
    intro he
    have := congrArg State.faultRec he
    simp [recordFault, hc.1] at this

/-- A bus read gives a word exactly as `ReadsWord` says (R59). -/
theorem busRead_iff_readsWord {s : State} {a v : Word} (hc : Clean s) (hb : s.cfg.BLK_BASE % 4 = 0) :
    busRead s a = .ok v ↔ ReadsWord s a v := by
  constructor
  · intro h
    obtain ⟨h1, ⟨r, h2, h3, h4⟩ | ⟨h2, h3, rfl⟩⟩ := busRead_ok h
    · exact Or.inr ⟨r, isRegAddr_of_regAt hb h2 h3, (returns_readInstr hc).2 h4⟩
    · exact Or.inl ⟨isMemAddr_iff.2 ⟨h1, h2, h3⟩, rfl⟩
  · rintro (⟨hm, rfl⟩ | ⟨r, ⟨-, ha⟩, hr⟩)
    · obtain ⟨h1, h2, h3⟩ := isMemAddr_iff.1 hm
      exact busRead_memory h1 h2 h3
    · obtain ⟨h1, h2, h3⟩ := window_address hb ha
      rw [busRead_register h1 h2 h3]
      exact (returns_readInstr hc).1 hr

/-- `ReadsWord` is a bus read that does not fault, wherever the window lies. -/
theorem ReadsWord.busRead {s : State} {a v : Word} (hc : Clean s) (h : ReadsWord s a v) : busRead s a = .ok v := by
  rcases h with ⟨hm, rfl⟩ | ⟨r, ⟨hb, ha⟩, hr⟩
  · obtain ⟨h1, h2, h3⟩ := isMemAddr_iff.1 hm
    exact busRead_memory h1 h2 h3
  · exact (busRead_iff_readsWord hc hb).2 (Or.inr ⟨r, ⟨hb, ha⟩, hr⟩)

/-- `WritesWord` is a bus write, committed: done, or a fault recorded (R59, R184). -/
theorem WritesWord.busWrite {s u : State} {a v : Word} (hc : Clean s) (h : WritesWord s a v u) :
    commit s (busWrite s a v) = .next u := by
  rcases h with ⟨hm, rfl⟩ | ⟨r, ⟨hb, ha⟩, hr⟩
  · obtain ⟨h1, h2, h3⟩ := isMemAddr_iff.1 hm
    rw [busWrite_memory h1 h2 h3, commit_ok]
  · obtain ⟨h1, h2, h3⟩ := window_address hb ha
    rw [busWrite_register h1 h2 h3, ← hr, exec_writeInstr ((halted_eq_false s).2 hc)]

/-- `WritesWord` that leaves no record is a bus write that is done. -/
theorem WritesWord.busWrite_ok {s u : State} {a v : Word} (hc : Clean s) (hu : Clean u) (h : WritesWord s a v u) :
    Machine.busWrite s a v = .ok u := by
  rcases commit_next.1 (h.busWrite hc) with h | ⟨f, -, rfl⟩
  · exact h
  · exact absurd hu.1 (by simp [recordFault])

/-- A transfer that is ready runs, and ends as its word transfer does (R118, R119). -/
theorem exec_dmaXfer {c : Chan} {s : State} (hc : Clean s) (h : TransferCondition c s) :
    exec (.dmaXfer c) s = commit s (xfer c s) := by
  obtain ⟨h1, h2, h3, h4⟩ := h
  have h5 : dreq c s = true := by
    rcases h4 with ⟨h4, h5⟩ | h4
    · simp [dreq, h4, fifoLevel, h5]
    · simp [dreq, h4]
  have h6 : xferReady c s = true := by
    simp only [xferReady, h1, h2, h5, Bool.true_and, Bool.and_true, decide_eq_true_eq]
    exact (BitVec.pos_iff_ne_zero _).2 h3
  simp [exec, execDmaXfer, (halted_eq_false s).2 hc, h6]

/-- A write to a register through the bus is one of the writes `WritesReg` names. -/
theorem writesReg_of_busWrite {s t : State} {a v : Word} (hb : s.cfg.BLK_BASE % 4 = 0) (h : busWrite s a v = .ok t) :
    (∃ r, IsRegAddr s.cfg a r ∧ writeReg v s r = .ok t) ∨
    (IsMemAddr s.cfg a ∧ t = { s with mem := memWrite s.mem a.toNat v }) := by
  obtain ⟨h1, ⟨r, h2, h3, h4⟩ | ⟨h2, h3, rfl⟩⟩ := Machine.busWrite_ok h
  · exact Or.inl ⟨r, isRegAddr_of_regAt hb h2 h3, h4⟩
  · exact Or.inr ⟨isMemAddr_iff.2 ⟨h1, h2, h3⟩, rfl⟩

end Sys2Proof.Machine
end

