-- ==== Sys2Proof/Laws/Memory.lean ====
section
/-! SUPPORT. The memory operations: a read after a write, and that every write keeps the canonical form (R60, R61). -/

namespace Sys2Proof.Machine

@[simp] theorem memGet_memSet_same (m : List Host.Cell) (a : Nat) (v : Byte) : memGet (memSet m a v) a = some v := by
  induction m with
  | nil => simp [memSet, memGet]
  | cons c m ih =>
    obtain ⟨b, w⟩ := c
    by_cases h1 : a < b
    · simp [memSet, memGet, h1]
    · by_cases h2 : a = b
      · simp [memSet, memGet, h2]
      · simp [memSet, memGet, h1, h2, ih]

theorem memGet_memSet_other (m : List Host.Cell) (a b : Nat) (v : Byte) (h : b ≠ a) :
    memGet (memSet m a v) b = memGet m b := by
  induction m with
  | nil => simp [memSet, memGet, h]
  | cons c m ih =>
    obtain ⟨d, w⟩ := c
    by_cases h1 : a < d
    · simp [memSet, memGet, h1, h]
    · by_cases h2 : a = d
      · subst h2; simp [memSet, memGet, h]
      · simp [memSet, memGet, h1, h2, ih]

@[simp] theorem readByte_memSet_same (m : List Host.Cell) (a : Nat) (v : Byte) : readByte (memSet m a v) a = v := by
  simp [readByte]

theorem readByte_memSet_other (m : List Host.Cell) (a b : Nat) (v : Byte) (h : b ≠ a) :
    readByte (memSet m a v) b = readByte m b := by
  simp [readByte, memGet_memSet_other m a b v h]

/-- Every byte outside the word written reads as before (R60). -/
theorem readByte_memWrite_other (m : List Host.Cell) (a b : Nat) (v : Word) (h : b < a ∨ a + 4 ≤ b) :
    readByte (memWrite m a v) b = readByte m b := by
  unfold memWrite
  rw [readByte_memSet_other _ _ _ _ (by omega), readByte_memSet_other _ _ _ _ (by omega),
    readByte_memSet_other _ _ _ _ (by omega), readByte_memSet_other _ _ _ _ (by omega)]

/-- The bytes of a word, put together again, are the word (R61). -/
theorem wordOfBytes_byteOf (v : Word) : wordOfBytes (byteOf v 0) (byteOf v 1) (byteOf v 2) (byteOf v 3) = v := by
  apply BitVec.eq_of_getLsbD_eq
  intro i hi
  have h32 : i < 32 := hi
  simp only [wordOfBytes, byteOf, BitVec.getLsbD_append, BitVec.getLsbD_setWidth, BitVec.getLsbD_ushiftRight]
  by_cases h0 : i < 8
  · simp [h0]
  · by_cases h1 : i - 8 < 8
    · simp [h0, h1]; congr 1; omega
    · by_cases h2 : i - 8 - 8 < 8
      · simp [h0, h1, h2]; congr 1; omega
      · have h3 : i - 8 - 8 - 8 < 8 := by omega
        simp [h0, h1, h2, h3]; congr 1; omega

/-- A word read after a write of the word is the word written (R60). -/
@[simp] theorem memRead_memWrite_same (m : List Host.Cell) (a : Nat) (v : Word) : memRead (memWrite m a v) a = v := by
  unfold memRead memWrite
  rw [readByte_memSet_other _ (a + 3) a _ (by omega), readByte_memSet_other _ (a + 2) a _ (by omega),
    readByte_memSet_other _ (a + 1) a _ (by omega), readByte_memSet_same,
    readByte_memSet_other _ (a + 3) (a + 1) _ (by omega), readByte_memSet_other _ (a + 2) (a + 1) _ (by omega),
    readByte_memSet_same, readByte_memSet_other _ (a + 3) (a + 2) _ (by omega), readByte_memSet_same,
    readByte_memSet_same, wordOfBytes_byteOf]

/-- A word read elsewhere is as before (R60: a write changes no other word). -/
theorem memRead_memWrite_other (m : List Host.Cell) (a b : Nat) (v : Word) (h : b + 4 ≤ a ∨ a + 4 ≤ b) :
    memRead (memWrite m a v) b = memRead m b := by
  unfold memRead
  rw [readByte_memWrite_other _ _ _ _ (by omega), readByte_memWrite_other _ _ _ _ (by omega),
    readByte_memWrite_other _ _ _ _ (by omega), readByte_memWrite_other _ _ _ _ (by omega)]

/-- A list that rises from a bound rises from any lower one. -/
theorem risingFrom_mono (m : List Host.Cell) (lo lo' : Nat) (h : lo' ≤ lo) (hm : risingFrom lo m = true) :
    risingFrom lo' m = true := by
  cases m with
  | nil => rfl
  | cons c m =>
    obtain ⟨a, v⟩ := c
    simp only [risingFrom, Bool.and_eq_true, decide_eq_true_eq] at hm ⊢
    exact ⟨by omega, hm.2⟩

theorem risingFrom_memSet (m : List Host.Cell) (lo a : Nat) (v : Byte) (hlo : lo ≤ a) (hm : risingFrom lo m = true) :
    risingFrom lo (memSet m a v) = true := by
  induction m generalizing lo with
  | nil => simp [memSet, risingFrom, hlo]
  | cons c m ih =>
    obtain ⟨b, w⟩ := c
    simp only [risingFrom, Bool.and_eq_true, decide_eq_true_eq] at hm
    unfold memSet
    split
    · rename_i h1
      simp only [risingFrom, Bool.and_eq_true, decide_eq_true_eq]
      exact ⟨hlo, by omega, hm.2⟩
    · split
      · rename_i h2
        subst h2
        simpa [risingFrom] using hm
      · simp only [risingFrom, Bool.and_eq_true, decide_eq_true_eq]
        exact ⟨hm.1, ih _ (by omega) hm.2⟩

/-- A byte write keeps the canonical form. -/
theorem memWf_memSet (m : List Host.Cell) (a : Nat) (v : Byte) (h : memWf m = true) : memWf (memSet m a v) = true :=
  risingFrom_memSet m 0 a v (Nat.zero_le a) h

/-- A word write keeps the canonical form. -/
theorem memWf_memWrite (m : List Host.Cell) (a : Nat) (v : Word) (h : memWf m = true) : memWf (memWrite m a v) = true :=
  memWf_memSet _ _ _ (memWf_memSet _ _ _ (memWf_memSet _ _ _ (memWf_memSet _ _ _ h)))

/-- The memory of the reset state has the canonical form. -/
theorem memWf_reset (p : Params) : memWf (State.resetWith p).mem = true := rfl

/-- A byte write lists no address but the one written. -/
theorem mem_memSet (m : List Host.Cell) (a : Nat) (v : Byte) (c : Host.Cell) (h : c ∈ memSet m a v) :
    c = (a, v) ∨ c ∈ m := by
  induction m with
  | nil => simpa [memSet] using h
  | cons d m ih =>
    obtain ⟨b, w⟩ := d
    unfold memSet at h
    split at h
    · simpa using h
    · split at h
      · simp only [List.mem_cons] at h ⊢
        exact h.imp_right Or.inr
      · simp only [List.mem_cons] at h ⊢
        rcases h with h | h
        · exact Or.inr (Or.inl h)
        · exact (ih h).imp_right Or.inr

/-- A word write lists no address but the four it writes. -/
theorem mem_memWrite (m : List Host.Cell) (a : Nat) (v : Word) (c : Host.Cell) (h : c ∈ memWrite m a v) :
    (a ≤ c.1 ∧ c.1 < a + 4) ∨ c ∈ m := by
  unfold memWrite at h
  rcases mem_memSet _ _ _ _ h with h | h
  · exact Or.inl (by subst h; simp)
  rcases mem_memSet _ _ _ _ h with h | h
  · exact Or.inl (by subst h; simp)
  rcases mem_memSet _ _ _ _ h with h | h
  · exact Or.inl (by subst h; simp)
  rcases mem_memSet _ _ _ _ h with h | h
  · exact Or.inl (by subst h; simp)
  exact Or.inr h

end Sys2Proof.Machine
end

