-- ==== Sys2Proof/Laws/PerInstr.lean ====
section
/-! SUPPORT. Statements made for every operation, one lemma a constructor. RoundTrip: the decoder reads the encoder's code of an operation
as that operation, with every operand at every value (R84, R85). -/

namespace Sys2Proof.Laws.RoundTrip

/-- Decoding the encoding of an operation gives it back. -/
def Statement (i : Instr) : Prop := decode (encode i) = .ok i

/-- The row of the OP8 table that a code's operation matches decides what it decodes to. -/
theorem term {i : Instr} (t : Term) (op : BitVec 8) (r : Op8Row) (he : encode i = .term t) (hop : t.op = op)
    (hf : op8Table.find? (fun r => op &&& r.mask == r.pattern) = some r) (hb : r.build t = i) : Statement i := by
  subst hop
  simp only [Statement, he, decode, decodeTerm, hf, hb]

/-- The register of an access decides what it decodes to. -/
theorem access {i : Instr} (r : Reg) (d : Dir) (v : Word)
    (hi : (match d with
      | .read => readInstr r
      | .write => writeInstr v r) = i)
    (he : encode i = .access { offset := regOffset r, dir := d, data := v }) : Statement i := by
  simp only [Statement, he, decode, decodeAccess, regAt_regOffset]
  exact congrArg _ hi

theorem hostLdw (a : Word) (w : Nat) (n : Name) : Statement (.hostLdw a w n) := term _ 0x00 _ rfl rfl rfl rfl
theorem hostStw (a v : Word) (w : Nat) : Statement (.hostStw a v w) := term _ 0x01 _ rfl rfl rfl rfl
theorem hAp : Statement (.hAp) := term _ _ _ rfl rfl rfl rfl
theorem hSp : Statement (.hSp) := term _ _ _ rfl rfl rfl rfl
theorem hBp : Statement (.hBp) := term _ _ _ rfl rfl rfl rfl
theorem vHold : Statement (.vHold) := term _ _ _ rfl rfl rfl rfl
theorem vVis : Statement (.vVis) := term _ _ _ rfl rfl rfl rfl
theorem vFp : Statement (.vFp) := term _ _ _ rfl rfl rfl rfl
theorem vSpl : Statement (.vSpl) := term _ _ _ rfl rfl rfl rfl
theorem vSph : Statement (.vSph) := term _ _ _ rfl rfl rfl rfl
theorem vBp : Statement (.vBp) := term _ _ _ rfl rfl rfl rfl
theorem cWait : Statement (.cWait) := term _ _ _ rfl rfl rfl rfl
theorem cTake : Statement (.cTake) := term _ _ _ rfl rfl rfl rfl
theorem cOut : Statement (.cOut) := term _ _ _ rfl rfl rfl rfl
theorem cStall : Statement (.cStall) := term _ _ _ rfl rfl rfl rfl
theorem cDwell : Statement (.cDwell) := term _ _ _ rfl rfl rfl rfl
theorem cBlank : Statement (.cBlank) := term _ _ _ rfl rfl rfl rfl
theorem dmaXfer (c : Chan) : Statement (.dmaXfer c) := by
  cases c <;> exact term _ _ _ rfl rfl rfl rfl
theorem dmaTrigger (c : Chan) : Statement (.dmaTrigger c) := by
  cases c <;> exact term _ _ _ rfl rfl rfl rfl
theorem dmaAbort (c : Chan) : Statement (.dmaAbort c) := by
  cases c <;> exact term _ _ _ rfl rfl rfl rfl
theorem pxXlate (x y : Nat) : Statement (.pxXlate x y) := term _ 0xA0 _ rfl rfl rfl rfl
theorem pxMask (col : Nat) : Statement (.pxMask col) := term _ 0xA1 _ rfl rfl rfl rfl
theorem pxSet (x y col : Nat) : Statement (.pxSet x y col) := term _ 0xA2 _ rfl rfl rfl rfl
theorem pxGet (x y : Nat) (n : Name) : Statement (.pxGet x y n) := term _ 0xA3 _ rfl rfl rfl rfl
theorem pxFill (col : Nat) : Statement (.pxFill col) := term _ 0xA4 _ rfl rfl rfl rfl
theorem sysStart : Statement (.sysStart) := term _ _ _ rfl rfl rfl rfl
theorem sysStop : Statement (.sysStop) := term _ _ _ rfl rfl rfl rfl
theorem rdSeqCtrl : Statement (.rdSeqCtrl) := access .seqCtrl .read 0 rfl rfl
theorem rdSeqFlags : Statement (.rdSeqFlags) := access .seqFlags .read 0 rfl rfl
theorem rdSeqFstat : Statement (.rdSeqFstat) := access .seqFstat .read 0 rfl rfl
theorem rdCgenTxf : Statement (.rdCgenTxf) := access .cgenTxf .read 0 rfl rfl
theorem rdChReadAddr (c : Chan) : Statement (.rdChReadAddr c) := access (.chReadAddr c) .read 0 rfl rfl
theorem rdChWriteAddr (c : Chan) : Statement (.rdChWriteAddr c) := access (.chWriteAddr c) .read 0 rfl rfl
theorem rdChTransCount (c : Chan) : Statement (.rdChTransCount c) := access (.chTransCount c) .read 0 rfl rfl
theorem rdChCtrlTrig (c : Chan) : Statement (.rdChCtrlTrig c) := access (.chCtrlTrig c) .read 0 rfl rfl
theorem rdChCtrl (c : Chan) : Statement (.rdChCtrl c) := access (.chCtrl c) .read 0 rfl rfl
theorem rdChReadAddrTrig (c : Chan) : Statement (.rdChReadAddrTrig c) := access (.chReadAddrTrig c) .read 0 rfl rfl
theorem rdChTransRemain (c : Chan) : Statement (.rdChTransRemain c) := access (.chTransRemain c) .read 0 rfl rfl
theorem rdChanAbort : Statement (.rdChanAbort) := access .chanAbort .read 0 rfl rfl
theorem wrSeqCtrl (v : Word) : Statement (.wrSeqCtrl v) := access .seqCtrl .write v rfl rfl
theorem wrSeqFlags (v : Word) : Statement (.wrSeqFlags v) := access .seqFlags .write v rfl rfl
theorem wrSeqFstat (v : Word) : Statement (.wrSeqFstat v) := access .seqFstat .write v rfl rfl
theorem wrCgenTxf (v : Word) : Statement (.wrCgenTxf v) := access .cgenTxf .write v rfl rfl
theorem wrChReadAddr (c : Chan) (v : Word) : Statement (.wrChReadAddr c v) := access (.chReadAddr c) .write v rfl rfl
theorem wrChWriteAddr (c : Chan) (v : Word) : Statement (.wrChWriteAddr c v) := access (.chWriteAddr c) .write v rfl rfl
theorem wrChTransCount (c : Chan) (v : Word) : Statement (.wrChTransCount c v) := access (.chTransCount c) .write v rfl rfl
theorem wrChCtrlTrig (c : Chan) (v : Word) : Statement (.wrChCtrlTrig c v) := access (.chCtrlTrig c) .write v rfl rfl
theorem wrChCtrl (c : Chan) (v : Word) : Statement (.wrChCtrl c v) := access (.chCtrl c) .write v rfl rfl
theorem wrChReadAddrTrig (c : Chan) (v : Word) : Statement (.wrChReadAddrTrig c v) := access (.chReadAddrTrig c) .write v rfl rfl
theorem wrChTransRemain (c : Chan) (v : Word) : Statement (.wrChTransRemain c v) := access (.chTransRemain c) .write v rfl rfl
theorem wrChanAbort (v : Word) : Statement (.wrChanAbort v) := access .chanAbort .write v rfl rfl

end Sys2Proof.Laws.RoundTrip
end

