-- ==== Sys2Proof/Laws/Step.lean ====
section
/-! SUPPORT. What a step can do, said once: the agent chosen is an enabled one, and a step performs what it issues (R13, R14, R186). -/

namespace Sys2Proof.Machine

/-- Whether a guarded value is there does not depend on the value. -/
theorem isSome_guard {α : Type} (b : Bool) (x y : α) :
    (if b = true then some x else none).isSome = (if b = true then some y else none).isSome := by
  cases b <;> rfl

/-- What an agent issues does not depend on the environment's script, but for the state it runs from. -/
theorem agentEnabled_sched (a : Agent) (s : State) (l : List Agent) :
    agentEnabled a { s with sched := l } = agentEnabled a s := by
  cases a with
  | hgen => exact congrArg (fun b => !halted s && b) (isSome_guard _ _ _)
  | vgen => exact congrArg (fun b => !halted s && b) (isSome_guard _ _ _)
  | cgen => exact congrArg (fun b => !halted s && b) (isSome_guard _ _ _)
  | dma c =>
    have h : xferReady c { s with sched := l } = xferReady c s := by cases c <;> rfl
    simp only [agentEnabled, agentIssue, halted, h]; split <;> rfl
  | host =>
    simp only [agentEnabled, agentIssue, halted, hostIssue]
    split
    · rfl
    · split <;> rfl

/-- The list `agents` names every agent (R4). -/
theorem mem_agents (a : Agent) : a ∈ agents := by
  cases a with
  | dma c => cases c <;> simp [agents]
  | _ => simp [agents]

/-- What `dropWhile` leaves begins with an element that fails the test. -/
theorem dropWhile_head {α : Type} {p : α → Bool} {l r : List α} {a : α} (h : l.dropWhile p = a :: r) : p a = false := by
  induction l with
  | nil => cases h
  | cons b l ih =>
    rw [List.dropWhile_cons] at h
    split at h
    · exact ih h
    · rename_i hb
      cases h
      simpa using hb

/-- The free choice is an enabled agent. -/
theorem freeChoice_enabled {s : State} {a : Agent} (h : freeChoice s = some a) : agentEnabled a s = true := by
  unfold freeChoice at h
  split at h
  · cases h
  · rename_i b hb
    cases h
    have : a ∈ agents.filter (fun a => agentEnabled a s) := by rw [hb]; simp
    simpa using (List.mem_filter.1 this).2
  · exact by simpa using List.find?_some h

/-- The agent that takes the step is enabled (R13, R14). -/
theorem choose_enabled {s : State} {a : Agent} {rest : List Agent} (h : choose s = some (a, rest)) :
    agentEnabled a s = true := by
  unfold choose at h
  split at h
  · rename_i b r hb
    cases h
    simpa using dropWhile_head hb
  · rename_i hb
    cases hf : freeChoice s with
    | none => simp [hf] at h
    | some b =>
      simp only [hf, Option.map_some, Option.some.injEq, Prod.mk.injEq] at h
      obtain ⟨rfl, -⟩ := h
      exact freeChoice_enabled hf

/-- What an enabled agent issues. -/
theorem agentIssue_of_enabled {s : State} {a : Agent} (h : agentEnabled a s = true) :
    halted s = false ∧ ∃ x, agentIssue a s = some x := by
  simp only [agentEnabled, Bool.and_eq_true, Bool.not_eq_true'] at h
  exact ⟨h.1, Option.isSome_iff_exists.1 h.2⟩

/-- A step that answers a next state: nothing is recorded, an enabled agent is chosen, and the state is what performing the agent's
issue answers (R13, R186). -/
theorem step_next {s t : State} (h : step s = .next t) :
    s.faultRec = none ∧ s.refusedRec = none ∧
    ∃ a rest x, choose { s with tick := s.tick + 1 } = some (a, rest) ∧
      agentEnabled a { s with tick := s.tick + 1, sched := rest } = true ∧
      agentIssue a { s with tick := s.tick + 1, sched := rest } = some x ∧ perform x = .next t := by
  unfold step at h
  split at h
  · cases h
  · rename_i h1
    split at h
    · cases h
    · rename_i h2
      refine ⟨h1, h2, ?_⟩
      unfold runChosen at h
      split at h
      · cases h
      · rename_i a rest hc
        split at h
        · rename_i x hx
          refine ⟨a, rest, x, hc, ?_, hx, h⟩
          exact (agentEnabled_sched a _ rest).trans (choose_enabled hc)
        · cases h

/-- Where nothing is recorded and an agent is chosen, a step performs what the agent issues. -/
theorem step_of_choose {s : State} {a : Agent} {rest : List Agent} (h1 : s.faultRec = none) (h2 : s.refusedRec = none)
    (hc : choose { s with tick := s.tick + 1 } = some (a, rest)) :
    step s = match agentIssue a { s with tick := s.tick + 1, sched := rest } with
      | some x => perform x
      | none => .fault .runEnded := by
  unfold step
  split
  · rename_i f hf
    exact absurd (h1.symm.trans hf) (by simp)
  · split
    · rename_i r hr
      exact absurd (h2.symm.trans hr) (by simp)
    · unfold runChosen
      rw [hc] <;> rfl

/-- Where nothing is recorded and no agent is chosen, a step says that the run has ended. -/
theorem step_of_choose_none {s : State} (h1 : s.faultRec = none) (h2 : s.refusedRec = none)
    (hc : choose { s with tick := s.tick + 1 } = none) : step s = .fault .runEnded := by
  unfold step
  split
  · rename_i f hf
    exact absurd (h1.symm.trans hf) (by simp)
  · split
    · rename_i r hr
      exact absurd (h2.symm.trans hr) (by simp)
    · unfold runChosen
      rw [hc]

/-- An agent that has an enabled operation performs what it issues (R13, R14). -/
theorem agentStep_of_issue {a : Agent} {s : State} {x : Issue} (h1 : s.faultRec = none) (h2 : s.refusedRec = none)
    (hx : agentIssue a s = some x) : agentStep a s = perform x := by
  have he : agentEnabled a s = true := by
    simp [agentEnabled, (halted_eq_false s).2 ⟨h1, h2⟩, hx]
  simp only [agentStep, he, if_true, hx]

/-- A run of one agent and then others. -/
theorem runAgents_cons_of_next {a : Agent} {as : List Agent} {s t : State} (h : agentStep a s = .next t) :
    runAgents (a :: as) s = runAgents as t := by
  simp [runAgents, h]

/-- A run made of two runs. -/
theorem runAgents_append (as bs : List Agent) (s : State) :
    runAgents (as ++ bs) s = (runAgents as s).bind (runAgents bs) := by
  induction as generalizing s with
  | nil => rfl
  | cons a as ih =>
    cases h : agentStep a s with
    | next t => simp [runAgents, h, ih]
    | fault f => simp [runAgents, h]
    | refused r => simp [runAgents, h]

/-- Performing an issue answers a next state by an operation, or by recording a refusal or a fault. -/
theorem perform_next {x : Issue} {t : State} (h : perform x = .next t) :
    (∃ i s, x = .run i s ∧ exec i s = .next t) ∨ (∃ r s, x = .refuse r s ∧ t = recordRefusal r s) ∨
    (∃ f s, x = .fault f s ∧ t = recordFault f s) := by
  cases x with
  | run i s => exact Or.inl ⟨i, s, rfl, h⟩
  | refuse r s => exact Or.inr (Or.inl ⟨r, s, rfl, by simpa [perform, refuse] using h.symm⟩)
  | fault f s => exact Or.inr (Or.inr ⟨f, s, rfl, by simpa [perform] using h.symm⟩)
  | unbound n => cases h

/-- What HOST issues is run from a state that differs only in the host's own lists. -/
theorem hostIssue_state {s : State} {x : Issue} (h : hostIssue s = some x) :
    (∃ st rest, s.host.pending = st :: rest ∧
      x = .run (.hostStw st.addr st.value 4) { s with host := { s.host with pending := rest } }) ∨
    (∃ l rest, s.host.pending = [] ∧ s.host.prog = l :: rest ∧
      x = issueLine l { s with host := { s.host with prog := rest } }) := by
  unfold hostIssue at h
  split at h
  · rename_i st rest hp
    exact Or.inl ⟨st, rest, hp, by simpa using h.symm⟩
  · rename_i hp
    split at h
    · rename_i l rest hl
      exact Or.inr ⟨l, rest, hp, hl, by simpa using h.symm⟩
    · cases h

/-- A line issues an operation, a refusal or a fault from the state it is issued in. -/
theorem issueLine_state {l : Line} {s : State} {x : Issue} (h : issueLine l s = x) :
    (∃ i, x = .run i s) ∨ (∃ r, x = .refuse r s) ∨ (∃ f, x = .fault f s) ∨ (∃ n, x = .unbound n) := by
  unfold issueLine at h
  split at h
  · unfold issueCode at h
    split at h
    · unfold issueTerm at h
      split at h
      · split at h
        · exact Or.inl ⟨_, h.symm⟩
        · exact Or.inr (Or.inl ⟨_, h.symm⟩)
      · exact Or.inr (Or.inl ⟨_, h.symm⟩)
    · unfold issueAccess at h
      split at h
      · exact Or.inr (Or.inr (Or.inl ⟨_, h.symm⟩))
      · split at h
        · exact Or.inl ⟨_, h.symm⟩
        · exact Or.inr (Or.inr (Or.inl ⟨_, h.symm⟩))
  · exact Or.inr (Or.inr (Or.inr ⟨_, h.symm⟩))

/-- The states two states differ from each other in only by the host's lists, the script and the step count. -/
structure SameBlock (s t : State) : Prop where
  cfg : t.cfg = s.cfg
  hgen : t.hgen = s.hgen
  vgen : t.vgen = s.vgen
  cgen : t.cgen = s.cgen
  flagA : t.flagA = s.flagA
  flagB : t.flagB = s.flagB
  smEn : t.smEn = s.smEn
  ch0 : t.ch0 = s.ch0
  ch1 : t.ch1 = s.ch1
  mem : t.mem = s.mem
  faultRec : t.faultRec = s.faultRec
  refusedRec : t.refusedRec = s.refusedRec
  draws : t.draws = s.draws

theorem SameBlock.refl (s : State) : SameBlock s s :=
  ⟨rfl, rfl, rfl, rfl, rfl, rfl, rfl, rfl, rfl, rfl, rfl, rfl, rfl⟩

/-- A step that answers a next state runs an operation from a state that differs only in the host's lists, the script and the step
count, or records a refusal or a fault there. -/
theorem step_cases {s t : State} (h : step s = .next t) :
    ∃ u, SameBlock s u ∧ u.faultRec = none ∧ u.refusedRec = none ∧
      ((∃ i, exec i u = .next t) ∨ (∃ r, t = recordRefusal r u) ∨ (∃ f, t = recordFault f u)) := by
  obtain ⟨h1, h2, a, rest, x, -, -, hx, hp⟩ := step_next h
  have key : ∃ u, SameBlock s u ∧ u.faultRec = none ∧ u.refusedRec = none ∧
      ((∃ i, x = .run i u) ∨ (∃ r, x = .refuse r u) ∨ (∃ f, x = .fault f u) ∨ (∃ n, x = .unbound n)) := by
    have base : SameBlock s { s with tick := s.tick + 1, sched := rest } :=
      ⟨rfl, rfl, rfl, rfl, rfl, rfl, rfl, rfl, rfl, rfl, rfl, rfl, rfl⟩
    cases a with
    | host =>
      rcases hostIssue_state hx with ⟨st, r, -, rfl⟩ | ⟨l, r, -, -, rfl⟩
      · exact ⟨{ s with tick := s.tick + 1, sched := rest, host := { s.host with pending := r } },
          ⟨rfl, rfl, rfl, rfl, rfl, rfl, rfl, rfl, rfl, rfl, rfl, rfl, rfl⟩, h1, h2, Or.inl ⟨_, rfl⟩⟩
      · exact ⟨{ s with tick := s.tick + 1, sched := rest, host := { s.host with prog := r } },
          ⟨rfl, rfl, rfl, rfl, rfl, rfl, rfl, rfl, rfl, rfl, rfl, rfl, rfl⟩, h1, h2, issueLine_state rfl⟩
    | _ =>
      refine ⟨_, base, h1, h2, Or.inl ?_⟩
      simp only [agentIssue] at hx
      split at hx
      · exact ⟨_, by simpa using hx.symm⟩
      · cases hx
  obtain ⟨u, hu, h3, h4, hk⟩ := key
  refine ⟨u, hu, h3, h4, ?_⟩
  rcases hk with ⟨i, rfl⟩ | ⟨r, rfl⟩ | ⟨f, rfl⟩ | ⟨n, rfl⟩
  · exact Or.inl ⟨i, hp⟩
  · exact Or.inr (Or.inl ⟨r, by simpa [perform, refuse] using hp.symm⟩)
  · exact Or.inr (Or.inr ⟨f, by simpa [perform] using hp.symm⟩)
  · cases hp

end Sys2Proof.Machine
end

