-- ==== Sys2Proof/Laws/Run.lean ====
section
/-! SUPPORT. Infinite runs and the end of a run: what R16's fairness gives, that the runs of `step` are runs, and when a run has
ended (R218). -/

namespace Sys2Proof.Machine

/-- An agent's step is one operation it issues, of an agent that is enabled (R14). -/
theorem agentStep_enabled {a : Agent} {s t : State} (h : agentStep a s = .next t) : agentEnabled a s = true := by
  unfold agentStep at h
  split at h
  · assumption
  · cases h

/-- No agent is enabled exactly where the state is quiescent. -/
theorem quiescent_iff {s : State} : quiescent s = true ↔ ∀ a, agentEnabled a s = false := by
  simp only [quiescent, List.all_eq_true, Bool.not_eq_true']
  exact ⟨fun h a => h a (mem_agents a), fun h a _ => h a⟩

/-- A run has ended exactly where no agent is enabled: a record, or a finished host program, is what keeps HOST from stepping. -/
theorem runEnded_iff {s : State} : RunEnded s ↔ ∀ a, agentEnabled a { s with tick := s.tick + 1 } = false := by
  rw [RunEnded, quiescent_iff, and_iff_left_iff_imp]
  intro h
  have hh := h .host
  by_cases hc : Clean s
  · right
    have hn : halted { s with tick := s.tick + 1 } = false := (halted_eq_false _).2 hc
    simp only [agentEnabled, hn, Bool.not_false, Bool.true_and, agentIssue, hostIssue] at hh
    split at hh
    · simp at hh
    · split at hh
      · simp at hh
      · exact ⟨by assumption, by assumption⟩
  · exact Or.inl hc

/-- From an ended run no agent steps. -/
theorem RunEnded.no_step {s : State} (h : RunEnded s) (a : Agent) (sch : List Agent) (t : State) :
    agentStep a { s with tick := s.tick + 1, sched := sch } ≠ .next t := by
  intro ht
  have h1 := agentStep_enabled ht
  rw [agentEnabled_sched a { s with tick := s.tick + 1 } sch, runEnded_iff.1 h a] at h1
  cases h1

/-- Where nothing is recorded, an ended run is what `step` answers runEnded for. -/
theorem RunEnded.step_eq {s : State} (hc : Clean s) (h : RunEnded s) : step s = .fault .runEnded := by
  apply step_of_choose_none hc.1 hc.2
  cases hch : choose { s with tick := s.tick + 1 } with
  | none => rfl
  | some x =>
    have := choose_enabled (a := x.1) (rest := x.2) hch
    rw [runEnded_iff.1 h x.1] at this
    cases this

/-- In an infinite run nothing is ever recorded: a record would end it (R186). -/
theorem InfiniteRun.clean {state : Nat → State} {taken : Nat → Agent} (h : InfiniteRun state taken) (n : Nat) :
    Clean (state n) := by
  obtain ⟨sch, hs⟩ := h n
  have h1 := agentStep_enabled hs
  simp only [agentEnabled, Bool.and_eq_true, Bool.not_eq_true'] at h1
  exact (halted_eq_false _).1 h1.1

/-- In an admitted run a generator whose enable bit stays 1 takes a step after every point: it always has an operation (R14), so
fairness gives it one (R16). -/
theorem AdmittedRun.generators_step {state : Nat → State} {taken : Nat → Agent} (h : AdmittedRun state taken) (n : Nat) :
    ((∀ m, n ≤ m → unitEnabled (state m) 0 = true) → ∃ m, n ≤ m ∧ taken m = .hgen) ∧
    ((∀ m, n ≤ m → unitEnabled (state m) 1 = true) → ∃ m, n ≤ m ∧ taken m = .vgen) ∧
    ((∀ m, n ≤ m → unitEnabled (state m) 2 = true) → ∃ m, n ≤ m ∧ taken m = .cgen) := by
  have hh : ∀ m, halted { state m with tick := (state m).tick + 1 } = false := fun m =>
    (halted_eq_false _).2 (h.run.clean m)
  have en : ∀ (a : Agent) (u m : Nat), (∀ s, agentIssue a s = if unitEnabled s u then some (.run (match a with
      | .hgen => hgenOp s | .vgen => vgenOp s | _ => cgenOp s) s) else none) → unitEnabled (state m) u = true →
      agentEnabled a { state m with tick := (state m).tick + 1 } = true := by
    intro a u m ha hu
    have hu' : unitEnabled { state m with tick := (state m).tick + 1 } u = true := hu
    simp [agentEnabled, hh m, ha, hu']
  exact ⟨fun he => h.fair .hgen n fun m hm => en .hgen 0 m (fun _ => rfl) (he m hm),
    fun he => h.fair .vgen n fun m hm => en .vgen 1 m (fun _ => rfl) (he m hm),
    fun he => h.fair .cgen n fun m hm => en .cgen 2 m (fun _ => rfl) (he m hm)⟩

/-- The infinite runs that `step` makes are infinite runs. -/
theorem StepRun.infiniteRun {state : Nat → State} {taken : Nat → Agent} (h : StepRun state taken) : InfiniteRun state taken := by
  intro n
  obtain ⟨hs, hc⟩ := h n
  obtain ⟨-, -, a, rest, x, hch, he, hx, hp⟩ := step_next hs
  have ha : a = taken n := by
    rw [hch] at hc
    simpa using hc
  subst ha
  exact ⟨rest, by simp only [agentStep]; rw [if_pos he, hx]; exact hp⟩

/-! ### Observation points and NO_STARVE -/

/-- What an observation point is: a state the run reaches, with nothing recorded, right after its C.BLANK, the K-th since START (R186,
R218). -/
theorem isObs_iff {k : Nat} {run : List Agent} {s t : State} :
    isObs k run s t = true ↔ runAgents run s = some t ∧ Clean t ∧ endsWithBlank run s = true ∧
      blanksSinceStart ((performedOps run s).map (·.1)) 0 = k := by
  simp only [isObs, Bool.and_eq_true, Bool.not_eq_true', decide_eq_true_eq, and_assoc]
  exact Iff.and Iff.rfl (Iff.and (halted_eq_false t) Iff.rfl)

/-- The last step of the run is C.BLANK, performed: not a step that only records a refusal or a fault at the issue. -/
theorem endsWithBlank_iff {run : List Agent} {s : State} :
    endsWithBlank run s = true ↔ ∃ u, (issued run s).getLast? = some (.run .cBlank u) := by
  simp only [endsWithBlank, decide_eq_true_eq]
  cases (issued run s).getLast? with
  | none => simp
  | some x => cases x <;> simp [issuedOp]

/-- NO_STARVE of a run given from a state after START: no C.STALL at all (R213). -/
theorem noStarve_started {is : List Instr} : noStarve true is = true ↔ .cStall ∉ is := by
  induction is with
  | nil => simp [noStarve]
  | cons i is ih => cases i <;> simp [noStarve, ih]

/-- NO_STARVE of a run given from before START: no C.STALL after the first START (R213). -/
theorem noStarve_from_start {pre is : List Instr} (h : .sysStart ∉ pre) :
    noStarve false pre = true ∧ noStarve false (pre ++ .sysStart :: is) = noStarve true is := by
  induction pre with
  | nil => exact ⟨rfl, rfl⟩
  | cons i pre ih =>
    simp only [List.mem_cons, not_or] at h
    obtain ⟨h1, h2⟩ := ih h.2
    cases i <;> first | exact absurd rfl h.1 | exact ⟨h1, h2⟩

end Sys2Proof.Machine
end

