-- ==== Sys2Proof/Tests/Slice0.lean ====
section
/-! SUPPORT. Tests: ill-formed operands are refused, codes written out from the spec's encodings decode to what they stand for,
single steps of the spec's own vectors (95_test_vectors.md), and a witness of the hypotheses of each statement. -/

namespace Sys2Proof.Tests
open Sys2Proof Sys2Proof.Machine

/-! ### WellFormed: one ill-formed term for each check -/

/-- F-25: an access of width 2. -/
theorem test_width_refused : (Instr.hostLdw 0x20000100 2 []).wellFormed = false ∧ (Instr.hostStw 0x20000100 0 8).wellFormed = false ∧
    (Instr.hostStw 0x20000100 0 4).wellFormed = true := by decide

/-- F-26: a colour of 8 or more. -/
theorem test_color_refused : (Instr.pxFill 9).wellFormed = false ∧ (Instr.pxMask 8).wellFormed = false ∧
    (Instr.pxSet 0 0 8).wellFormed = false ∧ (Instr.pxSet 0 0 7).wellFormed = true := by decide

/-! ### Decoding: codes written out from R85 and R84 -/

/-- Unit 0, R85. -/
theorem test_decode_host_bus :
    decode (.term { op := 0b00000000, a := 0x40000108, name := ['t'] }) = .ok (.hostLdw 0x40000108 4 ['t']) ∧
    decode (.term { op := 0b00000001, a := 0x20000000, v := 0x20000100 }) = .ok (.hostStw 0x20000000 0x20000100 4) :=
  ⟨rfl, rfl⟩

/-- Unit 1, R85. -/
theorem test_decode_hgen : decodeTableWord 8 0b00100000 = some .hAp ∧ decodeTableWord 8 0b00100001 = some .hSp ∧
    decodeTableWord 8 0b00100010 = some .hBp := ⟨rfl, rfl, rfl⟩

/-- Unit 2, R85. -/
theorem test_decode_vgen : decodeTableWord 8 0b01000000 = some .vHold ∧ decodeTableWord 8 0b01000001 = some .vVis ∧
    decodeTableWord 8 0b01000010 = some .vFp ∧ decodeTableWord 8 0b01000011 = some .vSpl ∧
    decodeTableWord 8 0b01000100 = some .vSph ∧ decodeTableWord 8 0b01000101 = some .vBp := ⟨rfl, rfl, rfl, rfl, rfl, rfl⟩

/-- Unit 3, R85. -/
theorem test_decode_cgen : decodeTableWord 8 0b01100000 = some .cWait ∧ decodeTableWord 8 0b01100001 = some .cTake ∧
    decodeTableWord 8 0b01100010 = some .cOut ∧ decodeTableWord 8 0b01100011 = some .cStall ∧
    decodeTableWord 8 0b01100100 = some .cDwell ∧ decodeTableWord 8 0b01100101 = some .cBlank := ⟨rfl, rfl, rfl, rfl, rfl, rfl⟩

/-- Unit 4, R85: bit 3 is the channel. -/
theorem test_decode_dma : decodeTableWord 8 0b10000000 = some (.dmaXfer .ch0) ∧ decodeTableWord 8 0b10001000 = some (.dmaXfer .ch1) ∧
    decodeTableWord 8 0b10000001 = some (.dmaTrigger .ch0) ∧ decodeTableWord 8 0b10001001 = some (.dmaTrigger .ch1) ∧
    decodeTableWord 8 0b10000010 = some (.dmaAbort .ch0) ∧ decodeTableWord 8 0b10001010 = some (.dmaAbort .ch1) :=
  ⟨rfl, rfl, rfl, rfl, rfl, rfl⟩

/-- Units 5 and 6, R85. -/
theorem test_decode_pixel_and_lifecycle :
    decode (.term { op := 0b10100000, x := 639, y := 479 }) = .ok (.pxXlate 639 479) ∧
    decode (.term { op := 0b10100001, col := 5 }) = .ok (.pxMask 5) ∧
    decode (.term { op := 0b10100010, x := 19, y := 2, col := 4 }) = .ok (.pxSet 19 2 4) ∧
    decode (.term { op := 0b10100011, x := 19, y := 2, name := ['r'] }) = .ok (.pxGet 19 2 ['r']) ∧
    decode (.term { op := 0b10100100, col := 7 }) = .ok (.pxFill 7) ∧
    decode (.term { op := 0b11000000 }) = .ok .sysStart ∧ decode (.term { op := 0b11000001 }) = .ok .sysStop :=
  ⟨rfl, rfl, rfl, rfl, rfl, rfl, rfl⟩

/-- The reads of R84, channel registers at c = 0 and c = 1 (offset bit 6). -/
theorem test_decode_register_reads :
    decodeTableWord 16 0b000000000 = some .rdSeqCtrl ∧ decodeTableWord 16 0b000000100 = some .rdSeqFlags ∧
    decodeTableWord 16 0b000001000 = some .rdSeqFstat ∧ decodeTableWord 16 0b000010000 = some .rdCgenTxf ∧
    decodeTableWord 16 0b100000000 = some (.rdChReadAddr .ch0) ∧ decodeTableWord 16 0b101000100 = some (.rdChWriteAddr .ch1) ∧
    decodeTableWord 16 0b100001000 = some (.rdChTransCount .ch0) ∧ decodeTableWord 16 0b101001100 = some (.rdChCtrlTrig .ch1) ∧
    decodeTableWord 16 0b101010000 = some (.rdChCtrl .ch1) ∧ decodeTableWord 16 0b100010100 = some (.rdChReadAddrTrig .ch0) ∧
    decodeTableWord 16 0b101011000 = some (.rdChTransRemain .ch1) ∧ decodeTableWord 16 0b110000000 = some .rdChanAbort :=
  ⟨rfl, rfl, rfl, rfl, rfl, rfl, rfl, rfl, rfl, rfl, rfl, rfl⟩

/-- The writes of R84. -/
theorem test_decode_register_writes :
    decode (.access { offset := 0b000000000, dir := .write, data := 0x77 }) = .ok (.wrSeqCtrl 0x77) ∧
    decode (.access { offset := 0b000000100, dir := .write, data := 2 }) = .ok (.wrSeqFlags 2) ∧
    decode (.access { offset := 0b000001000, dir := .write, data := 0 }) = .ok (.wrSeqFstat 0) ∧
    decode (.access { offset := 0b000010000, dir := .write, data := 7 }) = .ok (.wrCgenTxf 7) ∧
    decode (.access { offset := 0b100000000, dir := .write, data := 8 }) = .ok (.wrChReadAddr .ch0 8) ∧
    decode (.access { offset := 0b101000100, dir := .write, data := 8 }) = .ok (.wrChWriteAddr .ch1 8) ∧
    decode (.access { offset := 0b100001000, dir := .write, data := 6 }) = .ok (.wrChTransCount .ch0 6) ∧
    decode (.access { offset := 0b101001100, dir := .write, data := 0x001F8809 }) = .ok (.wrChCtrlTrig .ch1 0x001F8809) ∧
    decode (.access { offset := 0b100010000, dir := .write, data := 0x0001081B }) = .ok (.wrChCtrl .ch0 0x0001081B) ∧
    decode (.access { offset := 0b100010100, dir := .write, data := 0x20000100 }) = .ok (.wrChReadAddrTrig .ch0 0x20000100) ∧
    decode (.access { offset := 0b101011000, dir := .write, data := 1 }) = .ok (.wrChTransRemain .ch1 1) ∧
    decode (.access { offset := 0b110000000, dir := .write, data := 3 }) = .ok (.wrChanAbort 3) :=
  ⟨rfl, rfl, rfl, rfl, rfl, rfl, rfl, rfl, rfl, rfl, rfl, rfl⟩

/-- F-24 and F-3: a reserved code and an offset not in the table are rejected by name. -/
theorem test_decode_rejects : decode (.term { op := 0xE0 }) = .error (.reservedOpcode 0xE0) ∧
    decode (.term { op := 0x83 }) = .error (.reservedOpcode 0x83) ∧
    decode (.access { offset := 0x15C, dir := .read }) = .error (.unmappedOffset 0x15C) ∧ decodeTableWord 8 0x100 = none :=
  ⟨rfl, rfl, rfl, rfl⟩

/-! ### A small state: configuration T1 with known framebuffer words -/

/-- T1 after reset with the latch word of vector C-3, and the units enabled. -/
def base : State := { State.reset with cgen := initCGen 0x3FFFFFF8, smEn := 7 }

/-- The same, stopped. -/
def still : State := { base with smEn := 0 }

/-- Framebuffer words of the vectors of section 2.5: words 0, 1, 4 and 5, and the base-pointer word. -/
def painted : State := { still with
  mem := memWrite (memWrite (memWrite (memWrite (memWrite [] 0x20000000 0x20000100) 0x20000100 0x3FFFFFFF) 0x20000104 0xC0000000)
    0x20000110 0x3FFFFFFF) 0x20000114 0x3FFFFFFF }

/-- The DMA loop, Streaming with `r` words left, the data channel at word 6 - r. -/
def streaming (r : Nat) : State := { painted with
  ch0 := { readAddr := BitVec.ofNat 32 (0x20000118 - 4 * r), writeAddr := 0x40000010, transCount := 6,
           ctrl := ctrlOfWord 0x0001081B, remain := BitVec.ofNat 32 r, busy := true }
  ch1 := { readAddr := 0x20000000, writeAddr := 0x40000114, transCount := 1, ctrl := ctrlOfWord 0x001F8809, remain := 0, busy := false } }

/-- The DMA loop, Arming. -/
def arming : State := { streaming 6 with
  ch0 := { (streaming 6).ch0 with remain := 0, busy := false }
  ch1 := { (streaming 6).ch1 with remain := 1, busy := true } }

/-- The state given a host program, HOST chosen next. -/
def hosting (ls : List Line) (s : State) : State := { s with host := { s.host with prog := ls }, sched := [.host] }

/-- An operation answers a next state, and a check holds of it. -/
def vec (i : Instr) (s : State) (check : State → Bool) : Bool :=
  match exec i s with
  | .next t => check t
  | .fault _ => false
  | .refused _ => false

/-- A step answers a next state, and a check holds of it. -/
def stepVec (s : State) (check : State → Bool) : Bool :=
  match step s with
  | .next t => check t
  | .fault _ => false
  | .refused _ => false

/-! ### Single steps of the spec's vectors (95_test_vectors.md section 2) -/

/-- 2.1, cycle 2: (AP, 1) with H_SP = 4. -/
theorem test_h_ap : vec .hAp { base with hgen := { phase := .ap, cnt := 1, hsync := true } }
    (fun t => t.hgen == { phase := .sp, cnt := 4, hsync := true }) = true := by decide

/-- 2.1, cycle 3: (SP, 2). -/
theorem test_h_sp : vec .hSp { base with hgen := { phase := .sp, cnt := 2, hsync := true } }
    (fun t => t.hgen == { phase := .sp, cnt := 1, hsync := false } && !t.flagA) = true := by decide

/-- 2.1, cycle 6: (BP, 1) raises FLAG_A. -/
theorem test_h_bp : vec .hBp { base with hgen := { phase := .bp, cnt := 1, hsync := false } }
    (fun t => t.hgen == { phase := .ap, cnt := 24, hsync := true } && t.flagA) = true := by decide

/-- V-a, event 0, and V-d: FLAG_B already 1 stays 1. -/
theorem test_v_vis : vec .vVis { base with flagA := true, flagB := true }
    (fun t => t.vgen == { phase := .vis, cnt := 2, vsync := true } && t.flagB && !t.flagA) = true := by decide

/-- V-b, event 3: V_SPH = 0 skips SPH. -/
theorem test_v_spl : vec .vSpl { base with flagA := true, vgen := { phase := .spl, cnt := 1, vsync := true } }
    (fun t => t.vgen == { phase := .bp, cnt := 1, vsync := false } && !t.flagB) = true := by decide

/-- V-a, event 4. -/
theorem test_v_sph : vec .vSph { base with flagA := true, vgen := { phase := .sph, cnt := 1, vsync := false } }
    (fun t => t.vgen == { phase := .bp, cnt := 1, vsync := true }) = true := by decide

/-- V-a, events 2 and 5. -/
theorem test_v_fp_bp : vec .vFp { base with flagA := true, vgen := { phase := .fp, cnt := 1, vsync := true } }
      (fun t => t.vgen == { phase := .spl, cnt := 1, vsync := true }) = true ∧
    vec .vBp { base with flagA := true, vgen := { phase := .bp, cnt := 1, vsync := true } }
      (fun t => t.vgen == { phase := .vis, cnt := 3, vsync := true }) = true := by decide

/-- C-2. -/
theorem test_c_take : vec .cTake { base with flagB := true }
    (fun t => t.cgen.phase == .pixel && t.cgen.px == 20 && !t.flagB) = true := by decide

/-- C-3: the word driven is the latched one, not the one popped. -/
theorem test_c_out_loads : vec .cOut { base with cgen := { base.cgen with phase := .pixel, px := 20, color := 5, fifo := [0x3FFFFFFA] } }
    (fun t => t.cgen == { phase := .pixel, px := 19, osr := 0x07FFFFFF, osrn := 9, next := 0x3FFFFFFA, dw := 0, color := 0,
                          fifo := [] }) = true := by decide

/-- C-6: the last pixel of a line. -/
theorem test_c_out_ends : vec .cOut { base with cgen := { base.cgen with phase := .pixel, px := 1, osr := 4, osrn := 1 } }
    (fun t => t.cgen.color == 4 && t.cgen.osrn == 0 && t.cgen.px == 0 && t.cgen.phase == .blank) = true := by decide

/-- C-10 and C-11. -/
theorem test_c_dwell : vec .cDwell { base with cgen := { base.cgen with phase := .dwell, dw := 1, px := 6 } }
      (fun t => t.cgen.phase == .pixel && t.cgen.dw == 0) = true ∧
    vec .cDwell { base with cgen := { base.cgen with phase := .dwell, dw := 1, px := 0 } }
      (fun t => t.cgen.phase == .blank) = true := by decide

/-- C-7. -/
theorem test_c_blank : vec .cBlank { base with cgen := { base.cgen with phase := .blank, color := 4 } }
    (fun t => t.cgen.phase == .waitb && t.cgen.color == 0) = true := by decide

/-- D-2: the word at 0x20000104 (0xC0000000) is pushed. -/
theorem test_dma_xfer : vec (.dmaXfer .ch0) (streaming 5)
    (fun t => t.cgen.fifo == [0xC0000000] && t.ch0.readAddr == 0x20000108 && t.ch0.remain == 4) = true := by decide

/-- D-4: the last transfer arms the control channel in the same step. -/
theorem test_dma_xfer_chains : vec (.dmaXfer .ch0) (streaming 1)
    (fun t => !t.ch0.busy && t.ch0.remain == 0 && t.ch0.ctrl.en && t.ch1.busy && t.ch1.remain == 1) = true := by decide

/-- D-5: the control transfer. -/
theorem test_dma_xfer_rearms : vec (.dmaXfer .ch1) arming
    (fun t => t.ch0.readAddr == 0x20000100 && t.ch0.busy && t.ch0.remain == 6 && !t.ch1.busy) = true := by decide

/-- D-6. -/
theorem test_dma_abort : vec (.dmaAbort .ch0) (streaming 5)
    (fun t => ctrlWord t.ch0.ctrl t.ch0.busy == 0x0001081A && t.ch0.remain == 0) = true := by decide

/-- Table 1.1 under T0: (639, 479), and the wrap of (9, 0). -/
theorem test_px_xlate :
    (xlate { launchParams with H := 640, V := 480 } 639 479).toOption.map (fun r => (r.k, r.p)) = some (30718, 27) ∧
    (xlate { launchParams with H := 640, V := 480 } 9 0).toOption.map (fun r => (r.k, r.p)) = some (30719, 27) := by decide

/-- R142's example. -/
theorem test_px_mask : vec (.pxMask 5) still (fun t => t.host.ret == .word 0x2DB6DB6D) = true := by decide

/-- set_pixel 5, 1, 3 on word 1 = 0xC0000000: the store still to come. -/
theorem test_px_set : vec (.pxSet 5 1 3) painted
    (fun t => t.host.pending == [{ addr := 0x20000104, value := 0xC0018000 }] && t.mem == painted.mem) = true := by decide

/-- set_pixel 20, 0, 8: the refusal precedes the fault (R190). -/
theorem test_px_set_refused : vec (.pxSet 20 0 8) painted
    (fun t => t.refusedRec == some .color && t.faultRec == none) = true := by decide

/-- get_pixel 19, 2 on word 4 = 0x3FFFFFFF, slot 9. -/
theorem test_px_get : vec (.pxGet 19 2 ['r']) painted (fun t => lookupName t.host.names ['r'] == some 7) = true := by decide

/-- fill_all 7: words in increasing order, the first written now. -/
theorem test_px_fill : vec (.pxFill 7) still
    (fun t => memRead t.mem 0x20000100 == 0x3FFFFFFF && t.host.pending.map (·.addr) ==
      [0x20000104, 0x20000108, 0x2000010C, 0x20000110, 0x20000114]) = true := by decide

/-- P1: the twelve writes of START; F-27: refused when not stopped. -/
theorem test_sys_start : vec .sysStart still (fun t => memRead t.mem 0x20000000 == 0x20000100 && t.host.pending.length == 11) = true ∧
    vec .sysStart base (fun t => t.refusedRec == some .state) = true := by decide

/-- R180. -/
theorem test_sys_stop : vec .sysStop (streaming 5) (fun t => !t.ch0.busy && !t.ch0.ctrl.en && !t.ch1.ctrl.en &&
    t.host.pending == [{ addr := 0x40000000, value := 0 }]) = true := by decide

/-- G-7 and G-8. -/
theorem test_rd_seq_fstat : vec .rdSeqFstat { base with cgen := { base.cgen with fifo := [1, 2, 3] } }
      (fun t => t.host.ret == .word 0x00000003) = true ∧
    vec .rdSeqFstat { base with cgen := { base.cgen with fifo := [1, 2, 3, 4] } }
      (fun t => t.host.ret == .word 0x00000104) = true := by decide

/-- R161's example. -/
theorem test_rd_ch_ctrl : vec (.rdChCtrl .ch0) (streaming 5) (fun t => t.host.ret == .word 0x0101081B) = true := by decide

/-- F-10: the FIFO port is write-only, nothing is popped. -/
theorem test_rd_cgen_txf : vec .rdCgenTxf { base with cgen := { base.cgen with fifo := [1] } }
    (fun t => t.faultRec == some (.access 0x010) && t.cgen.fifo == [1]) = true := by decide

/-- F-5. -/
theorem test_wr_seq_ctrl_reserved : vec (.wrSeqCtrl 8) base
    (fun t => t.faultRec == some (.reserved 0x000 8) && t.smEn == 7) = true := by decide

/-- G-5. -/
theorem test_wr_seq_flags : vec (.wrSeqFlags 2) { base with flagA := true, flagB := true }
    (fun t => t.flagA && !t.flagB) = true := by decide

/-- F-13. -/
theorem test_wr_cgen_txf_full : vec (.wrCgenTxf 0) { base with cgen := { base.cgen with fifo := [1, 2, 3, 4] } }
    (fun t => t.faultRec == some (.fifoOverflow 0)) = true := by decide

/-- D-12. -/
theorem test_wr_ch_trans_count : vec (.wrChTransCount .ch0 2) (streaming 4)
    (fun t => t.ch0.transCount == 2 && t.ch0.remain == 4) = true := by decide

/-- F-14: the CTRL write is undone too. -/
theorem test_wr_ch_ctrl_trig_busy : vec (.wrChCtrlTrig .ch0 0x001F8809) (streaming 4)
    (fun t => t.faultRec == some (.triggerBusy .ch0) && t.ch0 == (streaming 4).ch0) = true := by decide

/-- G-14. -/
theorem test_wr_ch_ctrl_trig : vec (.wrChCtrlTrig .ch1 0x001F8809) (streaming 4)
    (fun t => ctrlWord t.ch1.ctrl t.ch1.busy == 0x011F8809 && t.ch1.remain == 1) = true := by decide

/-- D-1. -/
theorem test_wr_ch_read_addr_trig : vec (.wrChReadAddrTrig .ch0 0x20000100) arming
    (fun t => ctrlWord t.ch0.ctrl t.ch0.busy == 0x0101081B && t.ch0.remain == 6 && t.ch0.readAddr == 0x20000100) = true := by decide

/-- F-1: misalignment is reported before the unmapped offset. -/
theorem test_ldw_misaligned : vec (.hostLdw 0x40000011 4 ['a']) still
    (fun t => t.faultRec == some (.misaligned 0x40000011)) = true := by decide

/-- F-3 and F-4. -/
theorem test_ldw_unmapped : vec (.hostLdw 0x4000015C 4 ['a']) still (fun t => t.faultRec == some (.unmapped 0x4000015C)) = true ∧
    vec (.hostLdw 0x10000000 4 ['a']) still (fun t => t.faultRec == some (.unmapped 0x10000000)) = true := by decide

/-- R151's example, little-endian (R61). -/
theorem test_stw : vec (.hostStw 0x20000100 0x3FFFFFFE 4) still
    (fun t => t.mem == [(0x20000100, 0xFE), (0x20000101, 0xFF), (0x20000102, 0xFF), (0x20000103, 0x3F)]) = true := by decide

/-- F-23: a host term with an agent-step code. -/
theorem test_step_refuses_agent_code : stepVec (hosting [.term { op := 0x20 }] still)
    (fun t => t.refusedRec == some .opcode) = true := by decide

/-- R59 and R190 on the access line: offset 0x011 is misaligned before it is unmapped, as in F-1; 0x00C is unmapped. -/
theorem test_access_line_faults :
    stepVec (hosting [.access { offset := 0x011, dir := .read }] still)
      (fun t => t.faultRec == some (.misaligned 0x40000011)) = true ∧
    stepVec (hosting [.access { offset := 0x00C, dir := .write, data := 1 }] still)
      (fun t => t.faultRec == some (.unmapped 0x4000000C)) = true := by decide

/-- A program from text: `stw FB[0], 0x3FFFFFFF` (R89, R151). -/
theorem test_program_text :
    parseProgram "start ; arm\nstw FB[0], 0x3FFFFFFF\nldw CH1.CTRL_TRIG -> t".toList =
      some [.start, .stw (.fb 0) (.num 0x3FFFFFFF), .ldw (.reg (.chCtrlTrig .ch1)) ['t']] := by decide

/-- P1 step 3 as 95_test_vectors.md writes it: the FIFO port's address as a sum, to CH0's write address (log entry 33); other sums are
refused. -/
theorem test_program_sum :
    parseProgram "stw CH0.WRITE_ADDR, BLK_BASE+0x010\nldw BLK_BASE + 0x108 -> t".toList =
      some [.stw (.reg (.chWriteAddr .ch0)) (.blkPlus 0x010), .ldw (.blkPlus 0x108) ['t']] ∧
    parseProgram "stw FB_BASE+4, 1".toList = none ∧
    stepVec (hosting [.stw (.reg (.chWriteAddr .ch0)) (.blkPlus 0x010)] still)
      (fun t => t.ch0.writeAddr == 0x40000010) = true := by decide

/-- F-28, F-29 and F-30. -/
theorem test_cfg : Params.cfgOk { launchParams with H := 15 } = false ∧ Params.cfgOk { launchParams with MEM_SIZE := 0x110 } = false ∧
    Params.cfgOk { launchParams with V_FP := 1, H_AP := 1, H_SP := 1, H_BP := 1, V_SPH := 0 } = true := by decide

/-! ### Witnesses: for each statement with hypotheses, a state and operands that meet them together -/

theorem clean_base : Clean base := ⟨rfl, rfl⟩
theorem base_enabled : base.smEn.getLsbD 0 = true ∧ base.smEn.getLsbD 1 = true ∧ base.smEn.getLsbD 2 = true := by decide
theorem clean_still : Clean still := ⟨rfl, rfl⟩
theorem clean_painted : Clean painted := ⟨rfl, rfl⟩
theorem clean_streaming : Clean (streaming 5) := ⟨rfl, rfl⟩

/-- The invariant of the block in a state of the loop. -/
theorem blockInv_streaming : BlockInv (streaming 5) where
  cfg := by decide
  mem := ⟨by decide, by decide⟩
  fifo := by unfold FifoOk; decide
  counters := by unfold CountersOk; decide
  cgen := ⟨by decide, rfl, rfl⟩
  ch0 := by unfold ChannelOk; decide
  ch1 := by unfold ChannelOk; decide

/-- The invariant of the block in a stopped state. -/
theorem blockInv_still : BlockInv still where
  cfg := by decide
  mem := ⟨by decide, by decide⟩
  fifo := by unfold FifoOk; decide
  counters := by unfold CountersOk; decide
  cgen := ⟨by decide, rfl, rfl⟩
  ch0 := by unfold ChannelOk; decide
  ch1 := by unfold ChannelOk; decide

/-- Streaming at the boundary of a pass: its first word (r = 6) and its last (r = 1). -/
theorem streaming_boundaries : Streaming (streaming 6) ∧ Streaming (streaming 1) := by unfold Streaming; decide

/-- The loop invariant, Streaming. -/
theorem loopInv_streaming : LoopInv (streaming 5) where
  cfg := by decide
  fifo := by unfold FifoOk; decide
  data := by unfold DataConfigured; decide
  control := by unfold ControlConfigured; decide
  base := by unfold BasePtrOk; decide
  phase := Or.inr (by unfold Streaming; decide)

/-- The loop invariant, Arming. -/
theorem loopInv_arming : LoopInv arming where
  cfg := by decide
  fifo := by unfold FifoOk; decide
  data := by unfold DataConfigured; decide
  control := by unfold ControlConfigured; decide
  base := by unfold BasePtrOk; decide
  phase := Or.inl (by unfold Arming; decide)

/-- DecodeEncodeAgree, TermCodes and RegisterOffsets: codes of each clause, a channel term and a reserved code and offset. -/
theorem test_witness_codes : decode (.term { op := 0x88 }) = .ok (.dmaXfer .ch1) ∧
    decode (.access { offset := 0x158, dir := .write, data := 1 }) = .ok (.wrChTransRemain .ch1 1) ∧
    (0xFF : BitVec 8) ∉ ([0x00, 0x01, 0xC1] : List (BitVec 8)) ∧ (0x00C : BitVec 9) ∉ ([0x000, 0x004, 0x008, 0x010] : List (BitVec 9)) :=
  ⟨rfl, rfl, by decide, by decide⟩

/-- StepRunsHostOperation: HOST chosen with any line of R89 next, and with a store of an expansion next. -/
theorem test_witness_StepRunsHostOperation (l : Line) (ls : List Line) (st : Store) :
    let s := hosting (l :: ls) painted
    let w := { hosting [] painted with host := { painted.host with pending := [st] } }
    (Clean s ∧ choose { s with tick := s.tick + 1 } = some (.host, []) ∧ s.host.pending = [] ∧ s.host.prog = l :: ls) ∧
    (Clean w ∧ choose { w with tick := w.tick + 1 } = some (.host, []) ∧ w.host.pending = [st]) :=
  ⟨⟨⟨rfl, rfl⟩, rfl, rfl, rfl⟩, ⟨rfl, rfl⟩, rfl, rfl⟩

/-- StepRunsHostOperation: a term a program may issue and an access that decode, a VALUE bound earlier, and one not bound. -/
theorem test_witness_host_lines : decode (.term { op := 0xA1, col := 5 }) = .ok (.pxMask 5) ∧
    (Instr.pxMask 5).hostIssuable = true ∧ decode (.access { offset := 0x108, dir := .read }) = .ok (.rdChTransCount .ch0) ∧
    lookupName [(['t'], 7)] ['t'] = some (7 : Word) ∧ lookupName painted.host.names ['u'] = none := ⟨rfl, rfl, rfl, rfl, rfl⟩

/-- R89's `stw` of a NAME bound earlier, to FB[1]; of one not bound; and `ldw` of N's register. -/
theorem test_step_host_lines :
    stepVec (hosting [.stw (.fb 1) (.name ['t'])] { painted with host := { painted.host with names := [(['t'], 7)] } })
      (fun t => memRead t.mem 0x20000104 == 7 && t.host.prog == []) = true ∧
    (step (hosting [.stw (.fb 1) (.name ['t'])] painted) = .refused (.unboundName ['t'])) ∧
    stepVec (hosting [.ldw (.reg (.chTransCount .ch0)) ['n']] (streaming 5))
      (fun t => lookupName t.host.names ['n'] == some 6) = true := ⟨by decide, rfl, by decide⟩

/-- StepRunsUnitOperation: each generator and a channel chosen. -/
theorem test_witness_StepRunsUnitOperation :
    Clean base ∧ choose { base with sched := [.hgen], tick := 1 } = some (.hgen, []) ∧
    choose { base with sched := [.vgen], tick := 1 } = some (.vgen, []) ∧
    choose { base with sched := [.cgen], tick := 1 } = some (.cgen, []) ∧
    choose { streaming 5 with sched := [.dma .ch0], tick := 1 } = some (.dma .ch0, []) :=
  ⟨clean_base, by decide, by decide, by decide, by decide⟩

/-- StepRejectsHostCode: a term of another unit, an access at a misaligned offset, and one at an aligned offset with no register. -/
theorem test_witness_StepRejectsHostCode :
    let s := hosting [.term { op := 0x80 }] still
    let u := hosting [.access { offset := 0x011, dir := .read }] still
    let w := hosting [.access { offset := 0x00C, dir := .read }] still
    (Clean s ∧ choose { s with tick := s.tick + 1 } = some (.host, []) ∧ s.host.pending = []) ∧
    (Clean u ∧ choose { u with tick := u.tick + 1 } = some (.host, []) ∧ (0x011 : BitVec 9).toNat % 4 ≠ 0) ∧
    (Clean w ∧ choose { w with tick := w.tick + 1 } = some (.host, []) ∧ (0x00C : BitVec 9).toNat % 4 = 0 ∧
      regAt 0x00C = none) :=
  ⟨⟨⟨rfl, rfl⟩, rfl, rfl⟩, ⟨⟨rfl, rfl⟩, rfl, by decide⟩, ⟨rfl, rfl⟩, rfl, by decide, by decide⟩

/-- RecordStopsMachine: a recorded fault, and a recorded refusal. -/
theorem test_witness_RecordStopsMachine :
    ¬ Clean { base with faultRec := some (.misaligned 1) } ∧ ¬ Clean { base with refusedRec := some .state } := by
  unfold Clean; decide

/-- AnyEnabledAgentMayStep: an enabled agent; a script that passes over one that is not; and a state with none. -/
theorem test_witness_AnyEnabledAgentMayStep :
    Clean base ∧ agentEnabled .vgen base = true ∧ agentEnabled (.dma .ch1) base = false ∧
    choose { base with sched := [.dma .ch1, .vgen, .hgen] } = some (.vgen, [.hgen]) ∧
    choose still = none ∧ (agents.all fun a => !agentEnabled a { still with tick := 1 }) = true :=
  ⟨clean_base, by decide, by decide, by decide, by decide, by decide⟩

/-- ResetValues, ConfigurationRefused, ResetMeetsInvariant and the statements on the translator: configurations that pass CFG and one
that does not. -/
theorem test_witness_configuration : launchParams.cfgOk = true ∧ Params.cfgOk { launchParams with H := 10, V := 1 } = true ∧
    Params.cfgOk { launchParams with H := 15 } = false := by decide

/-- StepKeepsInvariant and StepKeepsConfiguration: a state of the invariant whose step answers a next state. -/
theorem test_witness_StepKeepsInvariant : BlockInv (streaming 5) ∧
    (∃ t, step { streaming 5 with sched := [.dma .ch0] } = .next t) :=
  ⟨blockInv_streaming, _, rfl⟩

/-- HgenCycle: the three phases. -/
theorem test_witness_HgenCycle (ph : HPhase) : let s := { base with hgen := { base.hgen with phase := ph } }
    Clean s ∧ s.smEn.getLsbD 0 = true ∧ s.hgen.phase = ph := ⟨⟨rfl, rfl⟩, base_enabled.1, rfl⟩

/-- VgenEvent: FLAG_A 0, and 1 in each phase. -/
theorem test_witness_VgenEvent (ph : VPhase) (b : Bool) : let s := { base with flagA := b, vgen := { base.vgen with phase := ph } }
    Clean s ∧ s.smEn.getLsbD 1 = true ∧ s.flagA = b ∧ s.vgen.phase = ph := ⟨⟨rfl, rfl⟩, base_enabled.2.1, rfl, rfl⟩

/-- CgenHoldTakeDwellBlank and CgenOut: each phase, with FLAG_B, the shift register and the FIFO empty or not. -/
theorem test_witness_Cgen (ph : CPhase) (b : Bool) (n : BitVec 4) (l : List Word) :
    let s := { base with flagB := b, cgen := { base.cgen with phase := ph, osrn := n, fifo := l } }
    Clean s ∧ s.smEn.getLsbD 2 = true ∧ s.cgen.phase = ph ∧ s.flagB = b ∧ s.cgen.osrn = n ∧ s.cgen.fifo = l :=
  ⟨⟨rfl, rfl⟩, base_enabled.2.2, rfl, rfl, rfl, rfl⟩

/-- GeneratorHasOneOperation: all units enabled, and none. -/
theorem test_witness_GeneratorHasOneOperation : (Clean base ∧ base.smEn.getLsbD 0 = true ∧ base.smEn.getLsbD 1 = true ∧
    base.smEn.getLsbD 2 = true) ∧ (Clean still ∧ still.smEn.getLsbD 0 = false ∧ still.smEn.getLsbD 1 = false ∧
    still.smEn.getLsbD 2 = false) :=
  ⟨⟨clean_base, by decide⟩, clean_still, by decide⟩

/-- GeneratorRegistersHaveOneWriter, ColorOutWriters and FlagWriters: operations that answer a next state and write what the
statements are about: each flag set and cleared, COLOR_OUT changed. -/
theorem test_witness_writers :
    vec .hBp { base with hgen := { phase := .bp, cnt := 1, hsync := true } } (fun t => t.flagA) = true ∧
    vec .vVis { base with flagA := true } (fun t => t.flagB && !t.flagA) = true ∧
    vec .cTake { base with flagB := true } (fun t => !t.flagB) = true ∧
    vec .cBlank { base with cgen := { base.cgen with phase := .blank, color := 4 } } (fun t => t.cgen.color == 0) = true ∧
    vec (.hostStw 0x40000004 3 4) { base with flagA := true, flagB := true } (fun t => !t.flagA && !t.flagB) = true ∧
    base.cfg.cfgOk = true := by decide

/-- GeneratorRegistersHaveOneWriter: a restart by each of its three writers, the register write, HOST.STW and a transfer, and a push to the
FIFO port. -/
theorem test_witness_writesReg : (∃ t, exec (.wrSeqCtrl 0x70) still = .next t ∧ t.hgen = initHGen still.cfg) ∧
    WritesReg (.wrSeqCtrl 0x70) still .seqCtrl 0x70 ∧ WritesReg (.hostStw 0x40000000 0x70 4) still .seqCtrl 0x70 ∧
    WritesReg (.dmaXfer .ch0) (streaming 5) .cgenTxf (memRead painted.mem 0x20000104) ∧ still.cfg.cfgOk = true := by
  refine ⟨⟨_, rfl, rfl⟩, Or.inl rfl, Or.inr (Or.inl ⟨_, rfl, ?_⟩), Or.inr (Or.inr ⟨.ch0, rfl, Or.inl ⟨?_, rfl⟩, ?_⟩), by decide⟩
  · unfold IsRegAddr; decide
  · unfold IsMemAddr InWindow; decide
  · unfold IsRegAddr; decide

/-- HgenLine and VgenFrame: the units in their initial states. -/
theorem test_witness_line_and_frame : Clean base ∧ base.cfg.cfgOk = true ∧ base.smEn.getLsbD 0 = true ∧
    base.hgen = initHGen base.cfg ∧ base.smEn.getLsbD 1 = true ∧ base.vgen = initVGen base.cfg :=
  ⟨clean_base, by decide, by decide, rfl, by decide, rfl⟩

/-- CgenLine and RowShowsTranslatedPixels: row 2 of T1, which shows words 3 and 4. -/
theorem test_witness_row : let s := { painted with smEn := 7, cgen := { painted.cgen with
      phase := .pixel, px := 20, next := fbWord painted 3, fifo := [fbWord painted 4, fbWord painted 5] } }
    Clean s ∧ s.cfg.cfgOk = true ∧ s.smEn.getLsbD 2 = true ∧ s.cgen.phase = .pixel ∧
    s.cgen.px = BitVec.ofNat 32 s.cfg.H ∧ s.cgen.osrn = 0 ∧ s.cfg.WPR ≤ s.cgen.fifo.length ∧
    s.cgen.next = fbWord s ((2 * s.cfg.WPR + s.cfg.N - 1) % s.cfg.N) ∧
    s.cgen.fifo.take s.cfg.WPR = (List.range s.cfg.WPR).map (fun m => fbWord s (2 * s.cfg.WPR + m)) :=
  ⟨⟨rfl, rfl⟩, by decide, by decide, rfl, by decide, rfl, by decide, rfl, rfl⟩

/-- HostLoad and HostStore: the first and the last word of memory, and a register's address; another width. -/
theorem test_witness_host_access : IsMemAddr still.cfg 0x20000000 ∧ IsMemAddr still.cfg 0x2000FFFC ∧
    IsRegAddr still.cfg 0x40000108 (.chTransCount .ch0) ∧ Returns (readInstr (.chTransCount .ch0)) still 0 ∧ (8 : Nat) ≠ 4 := by
  refine ⟨?_, ?_, ?_, rfl, by decide⟩
  · unfold IsMemAddr InWindow; decide
  · unfold IsMemAddr InWindow; decide
  · unfold IsRegAddr; decide

/-- HostAccessFaults: a misaligned address of the window, its unmapped offset 0x1FC, the first word after memory, one word across
its end, and the FIFO port. -/
theorem test_witness_HostAccessFaults : (0x400001FD : Word).toNat % 4 ≠ 0 ∧ InWindow still.cfg 0x400001FC ∧
    (∀ r, (0x400001FC : Word).toNat ≠ still.cfg.BLK_BASE + (regOffset r).toNat) ∧ ¬ InWindow still.cfg 0x20010000 ∧
    ¬ (still.cfg.MEM_BASE ≤ (0x20010000 : Word).toNat ∧ (0x20010000 : Word).toNat + 4 ≤ still.cfg.MEM_BASE + still.cfg.MEM_SIZE) ∧
    ¬ InWindow still.cfg 0x40000200 ∧ IsRegAddr still.cfg 0x40000010 .cgenTxf := by
  refine ⟨by decide, ?_, ?_, ?_, by decide, ?_, ?_⟩
  · unfold InWindow; decide
  · intro r; cases r <;> first | decide | (rename_i c; cases c <;> decide)
  · unfold InWindow; decide
  · unfold InWindow; decide
  · unfold IsRegAddr; decide

/-- FaultLeavesNoOtherTrace: an operation that records a fault, and one that records a refusal. -/
theorem test_witness_FaultLeavesNoOtherTrace :
    vec (.wrCgenTxf 0) { base with cgen := { base.cgen with fifo := [1, 2, 3, 4] } } (fun t => t.faultRec.isSome) = true ∧
    vec (.pxFill 8) base (fun t => t.refusedRec.isSome) = true := by decide

/-- MemoryFrame: a store to framebuffer word 0, and a byte on each side of it. -/
theorem test_witness_MemoryFrame : painted.cfg.cfgOk = true ∧ storesTo (.hostStw 0x20000100 0 4) painted = some 0x20000100 ∧
    storesTo .sysStart painted = some 0x20000000 ∧ storesTo .rdSeqCtrl painted = none ∧
    vec (.hostStw 0x20000100 0 4) painted (fun t => readByte t.mem 0x20000104 == 0x00 && readByte t.mem 0x20000107 == 0xC0 &&
      readByte t.mem 0x20000003 == 0x20) = true := by decide

/-- TransferWhenReady and TransferMovesOneWord: the data channel in its stream, its word read from memory and written to the port. -/
theorem test_witness_transfer : let s := streaming 5
    Clean s ∧ (chan s .ch0).ctrl.treqSel = 2 ∧ TransferCondition .ch0 s ∧ (chan s .ch0).remain ≠ 1 ∧
    IsMemAddr s.cfg (chan s .ch0).readAddr ∧ IsRegAddr s.cfg (chan s .ch0).writeAddr .cgenTxf ∧ s.cgen.fifo.length < s.cfg.F := by
  refine ⟨clean_streaming, by decide, ?_, by decide, ?_, ?_, by decide⟩
  · unfold TransferCondition; decide
  · unfold IsMemAddr InWindow; decide
  · unfold IsRegAddr; decide

/-- An unpaced run of channel 1 with two words left. -/
def unpaced (ra wa : Word) : State := { painted with
  ch1 := { readAddr := ra, writeAddr := wa, transCount := 2, ctrl := ctrlOfWord 0x001F8839, remain := 2, busy := true } }

/-- TransferMovesOneWord: an unpaced channel from memory to memory. -/
theorem test_witness_memory_transfer : let s := unpaced 0x20000110 0x2000FFFC
    TransferCondition .ch1 s ∧ (chan s .ch1).remain ≠ 1 ∧ IsMemAddr s.cfg (chan s .ch1).readAddr ∧
    IsMemAddr s.cfg (chan s .ch1).writeAddr := by
  refine ⟨?_, by decide, ?_, ?_⟩
  · unfold TransferCondition; decide
  · unfold IsMemAddr InWindow; decide
  · unfold IsMemAddr InWindow; decide

/-- TransferMovesOneWord: an unpaced channel from a register to its own READ_ADDR, and to CHAN_ABORT with the word that aborts it. -/
theorem test_witness_register_transfer : let s := unpaced 0x40000148 0x40000140
    let a := unpaced 0x40000148 0x40000180
    (TransferCondition .ch1 s ∧ (chan s .ch1).remain ≠ 1 ∧ ReadsWord s (chan s .ch1).readAddr 2 ∧
      IsRegAddr s.cfg (chan s .ch1).writeAddr (.chReadAddr .ch1)) ∧
    (TransferCondition .ch1 a ∧ ReadsWord a (chan a .ch1).readAddr 2 ∧ IsRegAddr a.cfg (chan a .ch1).writeAddr .chanAbort ∧
      (2 : Word) &&& 0xFFFFFFFC = 0 ∧ (2 : Word).getLsbD Chan.ch1.toNat = true) := by
  refine ⟨⟨?_, by decide, Or.inr ⟨.chTransCount .ch1, ?_, rfl⟩, ?_⟩, ?_, Or.inr ⟨.chTransCount .ch1, ?_, rfl⟩, ?_, by decide, by decide⟩
  all_goals first
    | (unfold TransferCondition; decide)
    | (unfold IsRegAddr; decide)

/-- R119's corner cases, by one transfer each: a channel that writes its own READ_ADDR moves on from the address it used; one that
aborts itself moves nothing. -/
theorem test_dma_xfer_own_registers :
    vec (.dmaXfer .ch1) (unpaced 0x40000148 0x40000140)
      (fun t => t.ch1.readAddr == 0x4000014C && t.ch1.writeAddr == 0x40000144 && t.ch1.remain == 1) = true ∧
    vec (.dmaXfer .ch1) (unpaced 0x40000148 0x40000180)
      (fun t => t.ch1.readAddr == 0x40000148 && t.ch1.remain == 0 && !t.ch1.busy && !t.ch1.ctrl.en) = true := by decide

/-- LastTransferChains: the last transfer, chaining to itself, and to the other channel disabled, busy, with a zero count, with an
illegal control word, and ready. -/
theorem test_witness_LastTransferChains : let s := streaming 1
    Clean s ∧ TransferCondition .ch0 s ∧ (chan s .ch0).remain = 1 ∧ IsMemAddr s.cfg (chan s .ch0).readAddr ∧
    IsRegAddr s.cfg (chan s .ch0).writeAddr .cgenTxf ∧ s.cgen.fifo.length < s.cfg.F ∧
    (chan s .ch0).ctrl.chainTo.toNat = Chan.ch0.other.toNat ∧ (ctrlOfWord 0x0001001B).chainTo.toNat = Chan.ch0.toNat ∧
    (ctrlOfWord 0x001F8808).en = false ∧ (chan arming .ch1).busy = true ∧ (chan still .ch1).transCount = 0 ∧
    ¬ CtrlLegal (ctrlOfWord 0x001F9009) ∧ CtrlLegal (chan s .ch1).ctrl := by
  refine ⟨⟨rfl, rfl⟩, ?_, by decide, ?_, ?_, by decide, by decide, by decide, by decide, by decide, by decide, ?_, ?_⟩
  · unfold TransferCondition; decide
  · unfold IsMemAddr InWindow; decide
  · unfold IsRegAddr; decide
  · unfold CtrlLegal; decide
  · unfold CtrlLegal; decide

/-- The last transfer of an unpaced run of channel 1. -/
def lastUnpaced (ctrl ra wa : Word) : State := { unpaced ra wa with
  ch1 := { (unpaced ra wa).ch1 with remain := 1, ctrl := ctrlOfWord ctrl } }

/-- LastTransferChains: the last transfer from memory to memory; one that writes a register; and one whose CHAIN_TO names no channel. -/
theorem test_witness_last_transfer : let s := lastUnpaced 0x001F8809 0x20000110 0x2000FFFC
    let u := lastUnpaced 0x001F9009 0x40000148 0x40000108
    (Clean s ∧ TransferCondition .ch1 s ∧ (chan s .ch1).remain = 1 ∧ IsMemAddr s.cfg (chan s .ch1).readAddr ∧
      IsMemAddr s.cfg (chan s .ch1).writeAddr) ∧
    (TransferCondition .ch1 u ∧ 1 < (chan u .ch1).ctrl.chainTo.toNat ∧ ∃ t, WritesWord u (chan u .ch1).writeAddr 2 t ∧ Clean t ∧
      (chan t .ch1).busy = true ∧ (chan t .ch1).remain = 1) := by
  refine ⟨⟨⟨rfl, rfl⟩, ?_, by decide, ?_, ?_⟩, ?_, by decide, _, Or.inr ⟨.chTransCount .ch0, ?_, rfl⟩, ⟨rfl, rfl⟩, by decide, by decide⟩
  all_goals first
    | (unfold TransferCondition; decide)
    | (unfold IsRegAddr; decide)
    | (unfold IsMemAddr InWindow; decide)

/-- TransferFaults: a ready channel with a full FIFO and no pacing; a misaligned address, an unmapped offset of the window and a
word outside both regions; and the addresses of the write-only and the read-only registers. -/
theorem test_witness_TransferFaults : let s := { unpaced 0x20000110 0x40000010 with cgen := { painted.cgen with fifo := [1, 2, 3, 4] } }
    Clean s ∧ TransferCondition .ch1 s ∧ ReadsWord s (chan s .ch1).readAddr 0x3FFFFFFF ∧ IsRegAddr s.cfg (chan s .ch1).writeAddr .cgenTxf ∧
    s.cgen.fifo.length = s.cfg.F ∧ (0x20000111 : Word).toNat % 4 ≠ 0 ∧
    (InWindow s.cfg 0x4000000C ∧ ∀ r, (0x4000000C : Word).toNat ≠ s.cfg.BLK_BASE + (regOffset r).toNat) ∧ ¬ InWindow s.cfg 0x10000000 ∧
    ¬ (s.cfg.MEM_BASE ≤ (0x10000000 : Word).toNat ∧ (0x10000000 : Word).toNat + 4 ≤ s.cfg.MEM_BASE + s.cfg.MEM_SIZE) ∧
    IsRegAddr s.cfg 0x40000180 .chanAbort ∧ IsRegAddr s.cfg 0x40000008 .seqFstat ∧ IsRegAddr s.cfg 0x40000158 (.chTransRemain .ch1) := by
  refine ⟨⟨rfl, rfl⟩, ?_, Or.inl ⟨?_, by decide⟩, ?_, by decide, by decide, ⟨?_, ?_⟩, ?_, by decide, ?_, ?_, ?_⟩
  · unfold TransferCondition; decide
  · unfold IsMemAddr InWindow; decide
  · unfold IsRegAddr; decide
  · unfold InWindow; decide
  · intro r; cases r <;> first | decide | (rename_i c; cases c <;> decide)
  · unfold InWindow; decide
  · unfold IsRegAddr; decide
  · unfold IsRegAddr; decide
  · unfold IsRegAddr; decide

/-- TransferFaults: channel 1 ready with each of those addresses to read, and to write. -/
theorem test_dma_xfer_faults :
    vec (.dmaXfer .ch1) (unpaced 0x4000000C 0x20000110) (fun t => t.faultRec == some (.unmapped 0x4000000C)) = true ∧
    vec (.dmaXfer .ch1) (unpaced 0x40000180 0x20000110) (fun t => t.faultRec == some (.access 0x180)) = true ∧
    vec (.dmaXfer .ch1) (unpaced 0x20000110 0x40000008) (fun t => t.faultRec == some (.access 0x008)) = true ∧
    vec (.dmaXfer .ch1) (unpaced 0x20000110 0x10000000) (fun t => t.faultRec == some (.unmapped 0x10000000)) = true := by decide

/-- ControlTransferRearms: Arming. -/
theorem test_witness_ControlTransferRearms : Clean arming ∧ arming.cfg.cfgOk = true ∧ DataConfigured arming ∧
    ControlConfigured arming ∧ Arming arming :=
  ⟨⟨rfl, rfl⟩, by decide, loopInv_arming.data, loopInv_arming.control, by unfold Arming; decide⟩

/-- TriggerStartsRun and TriggerWrites: a channel disabled; enabled and busy; idle with a zero count; idle with an illegal control word; and
ready, each a channel the statements name. -/
theorem test_witness_triggers : Clean still ∧ (chan still .ch0).ctrl.en = false ∧
    ((chan (streaming 5) .ch0).ctrl.en = true ∧ (chan (streaming 5) .ch0).busy = true) ∧
    ((ctrlOfWord 0x0001081B).en = true ∧ (chan still .ch0).busy = false ∧ (chan still .ch0).transCount = 0) ∧
    ((chan arming .ch0).busy = false ∧ (chan arming .ch0).transCount ≠ 0 ∧ CtrlLegal (chan arming .ch0).ctrl) ∧
    ((ctrlOfWord 0x00010817).en = true ∧ ¬ CtrlLegal (ctrlOfWord 0x00010817)) ∧
    (0x0001081B &&& 0xFEE007C0 : Word) = 0 ∧ (0x00000040 &&& 0xFEE007C0 : Word) ≠ 0 := by
  refine ⟨clean_still, by decide, by decide, by decide, ⟨by decide, by decide, ?_⟩, ⟨by decide, ?_⟩, by decide, by decide⟩
  · unfold CtrlLegal; decide
  · unfold CtrlLegal; decide

/-- AbortStopsChannels, WriteSeqCtrl, WriteFlagsAndFifo, WriteChannelRegisters and ControlWordReadsBack: a value with no reserved bit and
one with, and the FIFO full and not. -/
theorem test_witness_register_values : (3 &&& 0xFFFFFFFC : Word) = 0 ∧ (4 &&& 0xFFFFFFFC : Word) ≠ 0 ∧ (0x77 &&& 0xFFFFFF88 : Word) = 0 ∧
    (8 &&& 0xFFFFFF88 : Word) ≠ 0 ∧ (0x011FF83F &&& 0xFEE007C0 : Word) = 0 ∧ (0x00200000 &&& 0xFEE007C0 : Word) ≠ 0 ∧
    base.cgen.fifo.length < base.cfg.F ∧ ([1, 2, 3, 4] : List Word).length = base.cfg.F ∧
    vec (.wrChCtrl .ch0 0x011FF83F) (streaming 5) (fun t => t.ch0.busy) = true := by decide

/-- LoopStaysArmedOrStreaming: the loop's two states, a transfer, a host store the rule allows, and one it does not. -/
theorem test_witness_LoopStaysArmedOrStreaming : LoopInv (streaming 5) ∧ LoopInv arming ∧
    loopSafe launchParams (.dmaXfer .ch1) = true ∧ loopSafe launchParams (.hostStw 0x20000104 0 4) = true ∧
    loopSafe launchParams (.hostStw 0x20000000 0 4) = false ∧ (∃ t, exec (.dmaXfer .ch1) arming = .next t) :=
  ⟨loopInv_streaming, loopInv_arming, by decide, by decide, by decide, _, rfl⟩

/-- StreamPushesFramebufferInOrder: as many transfers as the FIFO has room for, and all that a pass has left. -/
theorem test_witness_StreamPushesFramebufferInOrder : Clean (streaming 5) ∧ LoopInv (streaming 5) ∧ Streaming (streaming 5) ∧
    4 ≤ (streaming 5).ch0.remain.toNat ∧ (streaming 5).cgen.fifo.length + 4 ≤ (streaming 5).cfg.F ∧
    (streaming 1).ch0.remain.toNat = 1 ∧ Streaming (streaming 1) :=
  ⟨clean_streaming, loopInv_streaming, by unfold Streaming; decide, by decide, by decide, by decide, streaming_boundaries.2⟩

/-- TranslatePixel and the statements on the translator: the corners of T1's raster, and the first coordinates outside. -/
theorem test_witness_translator : (0 < still.cfg.H ∧ 0 < still.cfg.V) ∧ (19 < still.cfg.H ∧ 2 < still.cfg.V) ∧ still.cfg.H ≤ 20 ∧
    still.cfg.V ≤ 3 ∧ 1 + 1 < still.cfg.V ∧ (xlate still.cfg 19 2).toOption.map (fun r => (r.k, r.p, r.addr)) = some (4, 27, 0x20000110) ∧
    5 < still.cfg.N := by decide

/-- TilingMask and PixelOperationFirstAccess: colours 7 and 8, inside and outside the raster. -/
theorem test_witness_pixel_operations : Clean painted ∧ painted.cfg.cfgOk = true ∧ 7 < 8 ∧ 8 ≤ 8 ∧ painted.cfg.H ≤ 20 ∧
    (19 < painted.cfg.H ∧ 2 < painted.cfg.V) ∧ (∃ r, xlate painted.cfg 19 2 = .ok r) :=
  ⟨clean_painted, by decide, by decide, by decide, by decide, by decide, _, rfl⟩

/-- SetPixelThenGetPixel, SetPixelIdempotent and FillAllPaintsEveryPixel: the host program ready, at the raster's first and last
pixels, at the same pixel and at another, and at colour 7. -/
theorem test_witness_pixel_programs :
    HostReady (hosting [.setPixel 19 2 7, .getPixel 19 2 ['r']] painted) [.setPixel 19 2 7, .getPixel 19 2 ['r']] [] ∧
    HostReady (hosting [.setPixel 0 0 7, .getPixel 19 2 ['r'], .stop] painted) [.setPixel 0 0 7, .getPixel 19 2 ['r']] [.stop] ∧
    HostReady (hosting [.setPixel 19 2 0, .setPixel 19 2 0] painted) [.setPixel 19 2 0, .setPixel 19 2 0] [] ∧
    HostReady (hosting [.fillAll 7, .start] painted) [.fillAll 7] [.start] ∧ painted.cfg.cfgOk = true ∧
    (0 < painted.cfg.H ∧ 0 < painted.cfg.V ∧ 19 < painted.cfg.H ∧ 2 < painted.cfg.V) :=
  ⟨⟨⟨rfl, rfl⟩, rfl, rfl⟩, ⟨⟨rfl, rfl⟩, rfl, rfl⟩, ⟨⟨rfl, rfl⟩, rfl, rfl⟩, ⟨⟨rfl, rfl⟩, rfl, rfl⟩, by decide, by decide⟩

/-- RegisterReads and AccessFaults: nothing recorded; HighPriorityRestrictsNothing has no hypothesis. -/
theorem test_witness_register_accesses : Clean (streaming 5) := clean_streaming

/-- LifecycleFirstWrite: a block that is stopped, and one that is not. -/
theorem test_witness_LifecycleFirstWrite : (Clean still ∧ still.cfg.cfgOk = true ∧ still.smEn = 0 ∧ still.ch0.busy = false ∧
    still.ch1.busy = false) ∧ (Clean base ∧ base.smEn ≠ 0) ∧ (Clean (streaming 5) ∧ (streaming 5).ch0.busy = true) :=
  ⟨⟨clean_still, by decide, by decide, rfl, rfl⟩, ⟨clean_base, by decide⟩, clean_streaming, rfl⟩

/-- StartArmsTheLoop: a stopped block with START next. -/
theorem test_witness_StartArmsTheLoop : BlockInv (hosting [.start] still) ∧ HostReady (hosting [.start] still) [.start] [] ∧
    (hosting [.start] still).smEn = 0 ∧ (hosting [.start] still).ch0.busy = false ∧ (hosting [.start] still).ch1.busy = false :=
  ⟨⟨blockInv_still.cfg, blockInv_still.mem, blockInv_still.fifo, blockInv_still.counters, blockInv_still.cgen, blockInv_still.ch0,
    blockInv_still.ch1⟩, ⟨⟨rfl, rfl⟩, rfl, rfl⟩, rfl, rfl, rfl⟩

/-- StopFreezesTheBlock: a running loop with STOP next. -/
theorem test_witness_StopFreezesTheBlock : (streaming 5).cfg.cfgOk = true ∧ HostReady (hosting [.stop] (streaming 5)) [.stop] [] ∧
    (streaming 5).ch0.ctrl = ctrlOfWord 0x0001081B ∧ (streaming 5).ch1.ctrl = ctrlOfWord 0x001F8809 :=
  ⟨by decide, ⟨⟨rfl, rfl⟩, rfl, rfl⟩, rfl, rfl⟩

/-! ### Runs: that an admitted run and an ended one exist -/

/-- T1 with CGEN alone enabled, waiting for FLAG_B. -/
def waiting (n : Nat) : State := { base with smEn := 4, tick := n }

/-- In that state CGEN is enabled and HGEN and VGEN are not. -/
theorem waiting_units (n : Nat) : unitEnabled (waiting n) 2 = true ∧ unitEnabled (waiting n) 0 = false ∧ unitEnabled (waiting n) 1 = false :=
  (by decide : (4 : BitVec 3).getLsbD 2 = true ∧ (4 : BitVec 3).getLsbD 0 = false ∧ (4 : BitVec 3).getLsbD 1 = false)

/-- In that state CGEN's step is C.WAIT, which leaves the block as it is. -/
theorem waiting_step (n : Nat) : agentStep .cgen (waiting n) = .next (waiting n) := by
  have hi : agentIssue .cgen (waiting n) = some (.run .cWait (waiting n)) := if_pos (waiting_units n).1
  have hg : cgenIn .waitb (waiting n) = true := by simp only [cgenIn, (waiting_units n).1]; rfl
  rw [agentStep_of_issue rfl rfl hi]
  simp only [perform, exec, execCWait, hg]
  rfl

/-- R16: an infinite run that is admitted: CGEN, the only agent with an enabled operation, takes C.WAIT for ever. -/
theorem test_admitted_run : AdmittedRun waiting (fun _ => .cgen) where
  run := fun n => ⟨[], waiting_step (n + 1)⟩
  fair := by
    intro a n h
    refine ⟨n, Nat.le_refl n, ?_⟩
    have h1 : agentEnabled a (waiting (n + 1)) = true := h n (Nat.le_refl n)
    obtain ⟨-, hh, hv⟩ := waiting_units (n + 1)
    cases a with
    | cgen => rfl
    | hgen => simp [agentEnabled, agentIssue, hh] at h1
    | vgen => simp [agentEnabled, agentIssue, hv] at h1
    | dma c => cases c <;> cases h1
    | host => cases h1

/-- R218 and D47: a run ends at a recorded fault with a line of the program and a store still to come. -/
theorem test_run_ended : RunEnded { hosting [.stop] still with
    faultRec := some (.misaligned 1), host := { still.host with prog := [.stop], pending := [{ addr := 0, value := 0 }] } } := by
  refine ⟨by decide, Or.inl ?_⟩
  unfold Clean; decide

/-- CGEN at the end of a line, with a host line of an agent-step code to come. -/
def blanking : State := { hosting [.term { op := 0x20 }] base with cgen := { base.cgen with phase := .blank, color := 4 } }

/-- R218 and R186: the state right after C.BLANK is OBS(1); the state after the refused host line that follows it is no observation. -/
theorem test_obs : (runAgents [.cgen] blanking).any (fun t => isObs 1 [.cgen] blanking t) = true ∧
    (runAgents [.cgen, .host] blanking).map (fun t => (t.refusedRec, isObs 1 [.cgen, .host] blanking t)) = some (some .opcode, false) ∧
    (runAgents [.cgen, .cgen] blanking).map (fun t => isObs 1 [.cgen, .cgen] blanking t) = some false := by decide

/-- R213: a C.STALL of a CGEN enabled by hand, before START, breaks no premise; the same run given as after START breaks NO_STARVE. -/
theorem test_no_starve : let s := { base with smEn := 4, cgen := { base.cgen with phase := .pixel, px := 20 } }
    ((performedOps [.cgen] s).map (·.1) = [.cStall]) ∧ premisesHold false [.cgen] s = true ∧ premisesHold true [.cgen] s = false ∧
    noStarve false [.cStall, .sysStart, .cOut] = true ∧ noStarve false [.cStall, .sysStart, .cStall] = false := by decide

end Sys2Proof.Tests
end

section
/-! The proofs of the statements on scope and the step: the configuration check (R11, R187), what an operation keeps (R18), the
generators' one enabled operation (R14), and the agent and operation a step takes (R13). -/

namespace Sys2Proof.Machine

/-! ### The configuration check, clause by clause (R11) -/

/-- CFG1 as a fact about numbers. -/
theorem cfg1_iff (p : Params) : p.cfg1 = true ↔ p.H * 3 % 30 = 0 := by
  simp [Params.cfg1, bitsPerPixel, usableBits]

/-- CFG2 as a fact about numbers. -/
theorem cfg2_iff (p : Params) : p.cfg2 = true ↔ 10 ≤ p.H ∧ 1 ≤ p.V := by
  simp [Params.cfg2]

/-- A count is accepted between its least value and the width of a unit counter. -/
theorem countOk_iff (lo n : Nat) : countOk lo n = true ↔ lo ≤ n ∧ n ≤ 2 ^ 32 - 1 := by
  simp only [countOk, Bool.and_eq_true, decide_eq_true_eq]
  exact Iff.rfl

/-- CFG3 as facts about numbers: the least values, and the counters' width for every count a unit counter is loaded with. -/
theorem cfg3_iff (p : Params) : p.cfg3 = true ↔
    1 ≤ p.H_AP ∧ 1 ≤ p.H_SP ∧ 1 ≤ p.H_BP ∧ 1 ≤ p.V_FP ∧ 1 ≤ p.V_SPL ∧ 1 ≤ p.V_BP ∧ 1 ≤ p.C_PIX ∧ 1 ≤ p.F ∧ p.F ≤ 255 ∧
    ∀ n ∈ [p.H_AP, p.H_SP, p.H_BP, p.V_FP, p.V_SPL, p.V_SPH, p.V_BP, p.C_PIX, p.H, p.V], n ≤ 2 ^ 32 - 1 := by
  simp only [Params.cfg3, Bool.and_eq_true, decide_eq_true_eq, countOk_iff, List.forall_mem_cons, List.not_mem_nil,
    false_implies, implies_true, and_true]
  omega

/-- CFG4 as a fact about numbers. -/
theorem cfg4_iff (p : Params) : p.cfg4 = true ↔ 1 ≤ p.N ∧ p.N ≤ 2 ^ 32 - 1 := countOk_iff 1 p.N

/-- CFG5 as facts about numbers. -/
theorem cfg5_iff (p : Params) : p.cfg5 = true ↔
    p.FB_BASE % 4 = 0 ∧ p.BASEPTR_ADDR % 4 = 0 ∧ p.BLK_BASE % 4 = 0 ∧ p.MEM_BASE % 4 = 0 ∧ p.FB_BASE ≠ 0 := by
  simp [Params.cfg5, and_assoc]

/-- CFG6 as facts about numbers. -/
theorem cfg6_iff (p : Params) : p.cfg6 = true ↔
    p.MEM_BASE ≤ p.FB_BASE ∧ p.FB_BASE + 4 * p.N ≤ p.MEM_BASE + p.MEM_SIZE ∧
    p.MEM_BASE ≤ p.BASEPTR_ADDR ∧ p.BASEPTR_ADDR + 4 ≤ p.MEM_BASE + p.MEM_SIZE ∧
    (p.FB_BASE + 4 * p.N ≤ p.BASEPTR_ADDR ∨ p.BASEPTR_ADDR + 4 ≤ p.FB_BASE) := by
  simp [Params.cfg6, inside, disjoint, and_assoc]

/-- CFG7 as facts about numbers. -/
theorem cfg7_iff (p : Params) : p.cfg7 = true ↔
    (p.MEM_BASE + p.MEM_SIZE ≤ p.BLK_BASE ∨ p.BLK_BASE + 0x200 ≤ p.MEM_BASE) ∧
    p.MEM_BASE + p.MEM_SIZE ≤ 2 ^ 32 ∧ p.BLK_BASE + 0x200 ≤ 2 ^ 32 := by
  simp only [Params.cfg7, disjoint, Bool.and_eq_true, Bool.or_eq_true, decide_eq_true_eq, and_assoc]
  exact Iff.rfl

/-- The check accepts exactly the configurations that meet the seven clauses. -/
theorem cfgOk_iff (p : Params) : p.cfgOk = true ↔
    p.cfg1 = true ∧ p.cfg2 = true ∧ p.cfg3 = true ∧ p.cfg4 = true ∧ p.cfg5 = true ∧ p.cfg6 = true ∧ p.cfg7 = true := by
  simp only [Params.cfgOk, Bool.and_eq_true, and_assoc]

/-! ### States with and without a record (R186) -/

/-- In a state with no record nothing is halted. -/
theorem Clean.halted_eq {s : State} (h : Clean s) : halted s = false := (halted_eq_false s).2 h

/-- An operation that answers a next state is performed in a state with no record (R186). -/
theorem exec_next_clean {i : Instr} {s t : State} (h : exec i s = .next t) : Clean s :=
  (halted_eq_false s).1 (exec_effect h).1

/-- With only a refusal recorded, a step answers it (R186). -/
theorem step_of_refusedRec {s : State} {r : RefusalRec} (hf : s.faultRec = none) (hr : s.refusedRec = some r) :
    step s = .refused (.halted r) := by
  simp [step, hf, hr]

/-- With nothing recorded, HOST is enabled as long as it has a line left (log entry 24). -/
theorem agentEnabled_host_of_prog {s : State} {l : Line} {rest : List Line} (hc : Clean s) (hl : s.host.prog = l :: rest) :
    agentEnabled .host s = true := by
  cases hp : s.host.pending <;> simp [agentEnabled, agentIssue, hostIssue, hc.halted_eq, hp, hl]

/-- Settles O11: each clause of the check is its fact about numbers, and reset records REF_CONFIG exactly where the check fails. -/
theorem configurationRefused : Obligations.ConfigurationRefused := by
  intro p
  refine ⟨?_, fun hp => ?_, fun hp => ?_⟩
  · rw [cfgOk_iff, cfg1_iff, cfg2_iff, cfg3_iff, cfg4_iff, cfg5_iff, cfg6_iff, cfg7_iff]
  · have hr : (State.resetWith p).refusedRec = some .config := by simp [State.resetWith, hp]
    refine ⟨hr, fun i t h => ?_, step_of_refusedRec rfl hr⟩
    exact absurd ((exec_next_clean h).2.symm.trans hr) (by simp)
  · have hc : Clean (State.resetWith p) := ⟨rfl, by simp [State.resetWith, hp]⟩
    exact ⟨hc, fun l rest => agentEnabled_host_of_prog (l := l) (rest := rest) hc rfl⟩

/-! ### What an operation keeps (R18) -/

@[simp] theorem hgenCycle_cfg (b : Bool) (ph : HPhase) (n : Nat) (s : State) : (hgenCycle b ph n s).cfg = s.cfg := by
  unfold hgenCycle; split <;> rfl

@[simp] theorem vgenEvent_cfg (b : Bool) (ph : VPhase) (n : Nat) (s : State) : (vgenEvent b ph n s).cfg = s.cfg := by
  unfold vgenEvent; split <;> rfl

@[simp] theorem withPending_cfg (l : List Store) (s : State) : (withPending l s).cfg = s.cfg := rfl

/-- A bus write that does not fault keeps the configuration. -/
theorem busWrite_cfg {s t : State} {a v : Word} (h : busWrite s a v = .ok t) : t.cfg = s.cfg := by
  obtain ⟨-, ⟨r, -, -, hw⟩ | ⟨-, -, rfl⟩⟩ := busWrite_ok h
  · exact (sameFrame_writeReg hw).cfg
  · rfl

/-- A transfer that does not fault keeps the configuration. -/
theorem xfer_cfg {c : Chan} {s t : State} (h : xfer c s = .ok t) : t.cfg = s.cfg := by
  obtain ⟨v, u, -, hw, hx⟩ := xfer_ok h
  exact (sameFrame_finishXfer hx).cfg.trans (busWrite_cfg hw)

/-- Whatever an operation does, it keeps the configuration. -/
theorem Effect.cfg {i : Instr} {s t : State} (h : Effect i s t) : t.cfg = s.cfg := by
  cases h with
  | hAp | hSp | vVis | vFp | vSplHigh | vSplBack | vSph | vBp => simp
  | hBp => split <;> simp
  | dmaXfer c _ _ _ hx => exact xfer_cfg hx
  | dmaTrigger c _ _ hx => exact (sameFrame_trigger hx).cfg
  | dmaAbort c => exact (sameFrame_abort c s).cfg
  | pxFill c _ _ st l _ hb => exact (busWrite_cfg hb).trans rfl
  | sysStart _ _ _ hb => exact (busWrite_cfg hb).trans rfl
  | sysStop _ _ hb => exact (busWrite_cfg hb).trans rfl
  | hostStw a v _ _ hb => exact busWrite_cfg hb
  | writeReg r v _ _ hw => exact (sameFrame_writeReg hw).cfg
  | _ => rfl

/-- An operation keeps the configuration (R18). -/
theorem exec_cfg {i : Instr} {s t : State} (h : exec i s = .next t) : t.cfg = s.cfg := (exec_effect h).2.cfg

/-- Settles O14: a step is one operation, or a record, from a state with the same configuration. -/
theorem stepKeepsConfiguration : Obligations.StepKeepsConfiguration := by
  refine ⟨fun i s t h => exec_cfg h, fun s t h => ?_⟩
  obtain ⟨u, hu, -, -, ⟨i, hi⟩ | ⟨r, rfl⟩ | ⟨f, rfl⟩⟩ := step_cases h
  · exact (exec_cfg hi).trans hu.cfg
  · exact hu.cfg
  · exact hu.cfg

/-! ### The one enabled operation of a generator (R14, R91) -/

/-! What each operation of a generator is: where it is enabled, and what it then answers (R93 to R109). -/

@[simp] theorem exec_hAp (s : State) : exec .hAp s = guardOp (hgenIn .ap s) (.next (hgenCycle true .sp s.cfg.H_SP s)) := rfl

@[simp] theorem exec_hSp (s : State) : exec .hSp s = guardOp (hgenIn .sp s) (.next (hgenCycle false .bp s.cfg.H_BP s)) := rfl

@[simp] theorem exec_hBp (s : State) : exec .hBp s =
    guardOp (hgenIn .bp s) (.next (hgenCycle true .ap s.cfg.H_AP (if s.hgen.cnt = 1 then raiseA s else s))) := rfl

@[simp] theorem exec_vHold (s : State) : exec .vHold s =
    guardOp (!halted s && unitEnabled s 1 && !s.flagA) (.next s) := rfl

@[simp] theorem exec_vVis (s : State) : exec .vVis s =
    guardOp (vgenIn .vis s) (.next (raiseB (vgenEvent true .fp s.cfg.V_FP s))) := rfl

@[simp] theorem exec_vFp (s : State) : exec .vFp s =
    guardOp (vgenIn .fp s) (.next (vgenEvent true .spl s.cfg.V_SPL s)) := rfl

@[simp] theorem exec_vSpl (s : State) : exec .vSpl s = guardOp (vgenIn .spl s) (.next
    (if s.cfg.V_SPH > 0 then vgenEvent false .sph s.cfg.V_SPH s else vgenEvent false .bp s.cfg.V_BP s)) := rfl

@[simp] theorem exec_vSph (s : State) : exec .vSph s =
    guardOp (vgenIn .sph s) (.next (vgenEvent true .bp s.cfg.V_BP s)) := rfl

@[simp] theorem exec_vBp (s : State) : exec .vBp s =
    guardOp (vgenIn .bp s) (.next (vgenEvent true .vis s.cfg.V s)) := rfl

@[simp] theorem exec_cWait (s : State) : exec .cWait s = guardOp (cgenIn .waitb s && !s.flagB) (.next s) := rfl

@[simp] theorem exec_cTake (s : State) : exec .cTake s = guardOp (cgenIn .waitb s && s.flagB) (.next
    { clearB s with cgen := { s.cgen with px := BitVec.ofNat 32 s.cfg.H, phase := .pixel } }) := rfl

@[simp] theorem exec_cOut (s : State) : exec .cOut s = guardOp (cgenIn .pixel s && canDrive s) (.next
    { s with cgen := drivePixel s.cfg.C_PIX (if s.cgen.osrn = 0 then loadWord s.cgen else s.cgen) }) := rfl

@[simp] theorem exec_cStall (s : State) : exec .cStall s = guardOp (cgenIn .pixel s && !canDrive s) (.next s) := rfl

@[simp] theorem exec_cDwell (s : State) : exec .cDwell s = guardOp (cgenIn .dwell s) (.next
    { s with cgen := { s.cgen with
        dw := s.cgen.dw - 1
        phase := if s.cgen.dw - 1 = 0 then (if s.cgen.px = 0 then .blank else .pixel) else .dwell } }) := rfl

@[simp] theorem exec_cBlank (s : State) : exec .cBlank s =
    guardOp (cgenIn .blank s) (.next { s with cgen := { s.cgen with color := 0, phase := .waitb } }) := rfl

@[simp] theorem clean_hgenCycle {b : Bool} {ph : HPhase} {n : Nat} {s : State} : Clean (hgenCycle b ph n s) ↔ Clean s := by
  unfold hgenCycle; split <;> rfl

@[simp] theorem clean_vgenEvent {b : Bool} {ph : VPhase} {n : Nat} {s : State} : Clean (vgenEvent b ph n s) ↔ Clean s := by
  unfold vgenEvent; split <;> rfl

@[simp] theorem clean_raiseA {s : State} : Clean (raiseA s) ↔ Clean s := Iff.rfl

@[simp] theorem clean_raiseB {s : State} : Clean (raiseB s) ↔ Clean s := Iff.rfl

/-- With nothing recorded, HGEN performs a phase's operation where it is enabled and in that phase. -/
theorem hgenIn_of_clean {s : State} (hc : Clean s) (ph : HPhase) :
    hgenIn ph s = (unitEnabled s 0 && decide (s.hgen.phase = ph)) := by
  simp [hgenIn, hc.halted_eq]

/-- With nothing recorded, VGEN consumes a line event in a phase where it is enabled, FLAG_A is 1 and it is in that phase. -/
theorem vgenIn_of_clean {s : State} (hc : Clean s) (ph : VPhase) :
    vgenIn ph s = (unitEnabled s 1 && s.flagA && decide (s.vgen.phase = ph)) := by
  simp [vgenIn, hc.halted_eq]

/-- With nothing recorded, CGEN performs a phase's operation where it is enabled and in that phase. -/
theorem cgenIn_of_clean {s : State} (hc : Clean s) (ph : CPhase) :
    cgenIn ph s = (unitEnabled s 2 && decide (s.cgen.phase = ph)) := by
  simp [cgenIn, hc.halted_eq]

/-- The operations of HGEN (R85). -/
def hgenOps : List Instr := [.hAp, .hSp, .hBp]

/-- The operations of VGEN (R85). -/
def vgenOps : List Instr := [.vHold, .vVis, .vFp, .vSpl, .vSph, .vBp]

/-- The operations of CGEN (R85). -/
def cgenOps : List Instr := [.cWait, .cTake, .cOut, .cStall, .cDwell, .cBlank]

/-- Of a list of operations, `i` is performed with no record made, and no other one is enabled. -/
def OnlyEnabled (ops : List Instr) (i : Instr) (s : State) : Prop :=
  i ∈ ops ∧ (∃ t, exec i s = .next t ∧ Clean t) ∧ ∀ j ∈ ops, j ≠ i → exec j s = .refused .notEnabled

/-- An enabled HGEN has exactly the operation its phase selects. -/
theorem onlyEnabled_hgenOp {s : State} (hc : Clean s) (he : unitEnabled s 0 = true) : OnlyEnabled hgenOps (hgenOp s) s := by
  have hin := hgenIn_of_clean hc
  cases hp : s.hgen.phase with
  | ap | sp => simp [OnlyEnabled, hgenOps, hgenOp, hin, he, hp, hc]
  | bp => simp [OnlyEnabled, hgenOps, hgenOp, hin, he, hp, apply_ite Clean, hc]

/-- An enabled VGEN has exactly the operation FLAG_A and its phase select. -/
theorem onlyEnabled_vgenOp {s : State} (hc : Clean s) (he : unitEnabled s 1 = true) : OnlyEnabled vgenOps (vgenOp s) s := by
  have hin := vgenIn_of_clean hc
  cases ha : s.flagA with
  | false => simp [OnlyEnabled, vgenOps, vgenOp, hin, hc.halted_eq, he, ha, hc]
  | true =>
    cases hp : s.vgen.phase with
    | vis | fp | sph | bp => simp [OnlyEnabled, vgenOps, vgenOp, hin, he, ha, hp, hc]
    | spl => simp [OnlyEnabled, vgenOps, vgenOp, hin, he, ha, hp, apply_ite Clean, hc]

/-- An enabled CGEN has exactly the operation its phase, FLAG_B, its shift register and its FIFO select. -/
theorem onlyEnabled_cgenOp {s : State} (hc : Clean s) (he : unitEnabled s 2 = true) : OnlyEnabled cgenOps (cgenOp s) s := by
  have hin := cgenIn_of_clean hc
  obtain ⟨hf, hr⟩ := hc
  cases hp : s.cgen.phase with
  | waitb => cases hb : s.flagB <;> simp [OnlyEnabled, cgenOps, cgenOp, hin, he, hp, hb, Clean, hf, hr]
  | pixel => cases hd : canDrive s <;> simp [OnlyEnabled, cgenOps, cgenOp, hin, he, hp, hd, Clean, hf, hr]
  | dwell | blank => simp [OnlyEnabled, cgenOps, cgenOp, hin, he, hp, Clean, hf, hr]

/-- A disabled HGEN has no enabled operation (R91). -/
theorem hgen_disabled {s : State} (hd : unitEnabled s 0 = false) :
    agentEnabled .hgen s = false ∧ ∀ j ∈ hgenOps, exec j s = .refused .notEnabled := by
  simp [agentEnabled, agentIssue, hgenOps, hgenIn, hd]

/-- A disabled VGEN has no enabled operation (R91). -/
theorem vgen_disabled {s : State} (hd : unitEnabled s 1 = false) :
    agentEnabled .vgen s = false ∧ ∀ j ∈ vgenOps, exec j s = .refused .notEnabled := by
  simp [agentEnabled, agentIssue, vgenOps, vgenIn, hd]

/-- A disabled CGEN has no enabled operation (R91). -/
theorem cgen_disabled {s : State} (hd : unitEnabled s 2 = false) :
    agentEnabled .cgen s = false ∧ ∀ j ∈ cgenOps, exec j s = .refused .notEnabled := by
  simp [agentEnabled, agentIssue, cgenOps, cgenIn, hd]

/-- Settles O19: the operation is the one the generator's state selects. -/
theorem generatorHasOneOperation : Obligations.GeneratorHasOneOperation := by
  intro s hc
  exact ⟨fun he => ⟨_, onlyEnabled_hgenOp hc he⟩, fun he => ⟨_, onlyEnabled_vgenOp hc he⟩,
    fun he => ⟨_, onlyEnabled_cgenOp hc he⟩, hgen_disabled, vgen_disabled, cgen_disabled⟩

/-! ### The agent that takes a step (R13, R14, R19) -/

/-- The rotation that begins with an agent names every agent. -/
theorem mem_rotation (a b : Agent) : b ∈ rotation a := List.mem_append_right _ (mem_agents b)

/-- Where an agent is enabled, the free choice is some agent. -/
theorem freeChoice_isSome {s : State} {a : Agent} (h : agentEnabled a s = true) : (freeChoice s).isSome = true := by
  have ha : a ∈ agents.filter (fun a => agentEnabled a s) := List.mem_filter.2 ⟨mem_agents a, h⟩
  unfold freeChoice
  split
  · rename_i hnil
    simp [hnil] at ha
  · rfl
  · exact List.find?_isSome.2 ⟨a, mem_rotation _ a, h⟩

/-- Where an agent is enabled, some agent is chosen. -/
theorem choose_isSome {s : State} {a : Agent} (h : agentEnabled a s = true) : (choose s).isSome = true := by
  unfold choose
  split
  · rfl
  · simpa using freeChoice_isSome h

/-- No agent is chosen exactly where none is enabled. -/
theorem choose_eq_none_iff {s : State} : choose s = none ↔ ∀ a, agentEnabled a s = false := by
  constructor
  · intro h a
    by_contra ha
    simpa [h] using choose_isSome (Bool.of_not_eq_false ha)
  · intro h
    cases hc : choose s with
    | none => rfl
    | some x => exact absurd (choose_enabled (a := x.1) (rest := x.2) hc) (by simp [h])

/-- A script is followed, passing over agents that are not enabled (R19). -/
theorem choose_script {s : State} {pre rest : List Agent} {a : Agent} (hs : s.sched = pre ++ a :: rest)
    (hpre : ∀ b ∈ pre, agentEnabled b s = false) (ha : agentEnabled a s = true) : choose s = some (a, rest) := by
  have hd : s.sched.dropWhile (fun b => !agentEnabled b s) = a :: rest := by
    rw [hs, List.dropWhile_append_of_pos (by simpa using hpre), List.dropWhile_cons_of_neg (by simp [ha])]
  simp [choose, hd]

/-- An enabled agent's step performs what it issues. -/
theorem agentStep_of_enabled {a : Agent} {s : State} {x : Issue} (he : agentEnabled a s = true)
    (hx : agentIssue a s = some x) : agentStep a s = perform x := by
  simp [agentStep, he, hx]

/-- With nothing recorded, a step performs what the agent chosen issues (R13). -/
theorem step_of_issue {s : State} {a : Agent} {sch : List Agent} {x : Issue} (hc : Clean s)
    (hch : choose { s with tick := s.tick + 1 } = some (a, sch))
    (hx : agentIssue a { s with tick := s.tick + 1, sched := sch } = some x) : step s = perform x := by
  rw [step_of_choose hc.1 hc.2 hch, hx]

/-- The step of the agent chosen (R13). -/
theorem step_eq_agentStep {s : State} {a : Agent} {sch : List Agent} (hc : Clean s)
    (hch : choose { s with tick := s.tick + 1 } = some (a, sch)) :
    step s = agentStep a { s with tick := s.tick + 1, sched := sch } := by
  have he : agentEnabled a { s with tick := s.tick + 1, sched := sch } = true :=
    (agentEnabled_sched a _ sch).trans (choose_enabled hch)
  obtain ⟨-, x, hx⟩ := agentIssue_of_enabled he
  exact (step_of_issue hc hch hx).trans (agentStep_of_enabled he hx).symm

/-- Settles O9: the script's first enabled agent, else the free choice, which is there as soon as one agent is enabled. -/
theorem anyEnabledAgentMayStep : Obligations.AnyEnabledAgentMayStep := by
  refine ⟨fun s a l => choose_enabled, fun s a ha => ?_, fun s => choose_eq_none_iff, fun s pre rest a => choose_script,
    fun s a sch => step_eq_agentStep, fun s hc hn => ?_⟩
  · exact choose_script (pre := []) rfl (by simp) ((agentEnabled_sched a s [a]).trans ha)
  · exact step_of_choose_none hc.1 hc.2 (choose_eq_none_iff.2 hn)

/-! ### The operation of a step of a generator or a channel (R14, R27, R86) -/

/-- The operation a generator's or a channel's state selects (R14). -/
def unitOp (s : State) : Agent → Option Instr
  | .hgen => some (hgenOp s)
  | .vgen => some (vgenOp s)
  | .cgen => some (cgenOp s)
  | .dma c => some (.dmaXfer c)
  | .host => none

/-- An enabled generator or channel issues the operation its state selects. -/
theorem agentIssue_unitOp {a : Agent} {s : State} {i : Instr} (he : agentEnabled a s = true) (hi : unitOp s a = some i) :
    agentIssue a s = some (.run i s) := by
  obtain ⟨-, x, hx⟩ := agentIssue_of_enabled he
  cases a with
  | host => cases hi
  | _ =>
    cases hi
    simp only [agentIssue] at hx ⊢
    split at hx
    · rw [if_pos ‹_›]
    · cases hx

/-- Where a generator or a channel is chosen, a step is the operation its state selects. -/
theorem step_unitOp {s : State} {a : Agent} {sch : List Agent} {i : Instr} (hc : Clean s)
    (hch : choose { s with tick := s.tick + 1 } = some (a, sch))
    (hi : unitOp { s with tick := s.tick + 1, sched := sch } a = some i) :
    step s = exec i { s with tick := s.tick + 1, sched := sch } := by
  have he : agentEnabled a { s with tick := s.tick + 1, sched := sch } = true :=
    (agentEnabled_sched a _ sch).trans (choose_enabled hch)
  exact step_of_issue hc hch (agentIssue_unitOp he hi)

/-- CGEN can drive a pixel exactly where its shift register or its FIFO is not empty (R106). -/
theorem canDrive_iff {s : State} : canDrive s = true ↔ s.cgen.osrn ≠ 0 ∨ s.cgen.fifo ≠ [] := by
  simp [canDrive, fifoLevel, BitVec.pos_iff_ne_zero, List.length_pos_iff]

/-- The operation CGEN's state selects in the middle of a line. -/
theorem cgenOp_pixel {s : State} (hp : s.cgen.phase = .pixel) : cgenOp s = if canDrive s then .cOut else .cStall := by
  simp [cgenOp, hp]

/-- Settles O6: one case for each operation a unit's state can select. -/
theorem stepRunsUnitOperation : Obligations.StepRunsUnitOperation := by
  intro s a sch hc hch u
  have run : ∀ {i}, unitOp u a = some i → step s = exec i u := step_unitOp hc hch
  refine ⟨?_, ?_, ?_, ?_⟩
  · rintro rfl
    have op {i} (h : hgenOp u = i) : step s = exec i u := run (congrArg some h)
    exact ⟨fun hp => op (by simp [hgenOp, u, hp]), fun hp => op (by simp [hgenOp, u, hp]),
      fun hp => op (by simp [hgenOp, u, hp])⟩
  · rintro rfl
    have op {i} (h : vgenOp u = i) : step s = exec i u := run (congrArg some h)
    refine ⟨fun ha => op (by simp [vgenOp, u, ha]), fun ha => ?_⟩
    exact ⟨fun hp => op (by simp [vgenOp, u, ha, hp]), fun hp => op (by simp [vgenOp, u, ha, hp]),
      fun hp => op (by simp [vgenOp, u, ha, hp]), fun hp => op (by simp [vgenOp, u, ha, hp]),
      fun hp => op (by simp [vgenOp, u, ha, hp])⟩
  · rintro rfl
    have op {i} (h : cgenOp u = i) : step s = exec i u := run (congrArg some h)
    refine ⟨fun hp hb => op (by simp [cgenOp, u, hp, hb]), fun hp hb => op (by simp [cgenOp, u, hp, hb]),
      fun hp hd => op ?_, fun hp ho hf => op ?_, fun hp => op (by simp [cgenOp, u, hp]), fun hp => op (by simp [cgenOp, u, hp])⟩
    · exact (cgenOp_pixel (s := u) hp).trans (if_pos (canDrive_iff.2 hd))
    · exact (cgenOp_pixel (s := u) hp).trans (if_neg (by simp [canDrive_iff, u, ho, hf]))
  · rintro c rfl
    exact run rfl

/-! ### The operation of a step of HOST (R89, R90, R152) -/

/-- A line that assembles to a term a host program may issue runs the term's operation (R85, R89, R152). -/
theorem issueLine_of_term {l : Line} {s : State} {t : Term} {i : Instr} (ha : assemble s.cfg s.host.names l = .ok (.term t))
    (hd : decode (.term t) = .ok i) (hi : i.hostIssuable = true) : issueLine l s = .run i s := by
  simp [issueLine, ha, issueCode, issueTerm, hd, hi]

/-- An offset that decodes to an operation is a multiple of 4 (R37, R84). -/
theorem offset_aligned_of_decode {b : BusAccess} {i : Instr} (hd : decode (.access b) = .ok i) : b.offset.toNat % 4 = 0 := by
  cases hr : regAt b.offset with
  | none => simp [decode, decodeAccess, hr] at hd
  | some r => exact regOffset_of_regAt _ _ hr ▸ regOffset_aligned r

/-- An access line that decodes to a register operation runs it (R84). -/
theorem issueLine_of_access {s : State} {b : BusAccess} {i : Instr} (hd : decode (.access b) = .ok i) :
    issueLine (.access b) s = .run i s := by
  simp [issueLine, assemble, issueCode, issueAccess, offset_aligned_of_decode hd, hd]

/-- A stw line whose VALUE stands for a word runs HOST.STW of that word (R89, R151). -/
theorem issueLine_stw {s : State} {a : AddrExpr} {v : ValueExpr} {w : Word} (hv : valueOf s.cfg s.host.names v = .ok w) :
    issueLine (.stw a v) s = .run (.hostStw (addrOf s.cfg a) w 4) s :=
  issueLine_of_term (by simp only [assemble, hv]) (Laws.RoundTrip.hostStw (addrOf s.cfg a) w 4) rfl

/-- A stw line whose VALUE is a NAME not bound runs nothing (log entry 18). -/
theorem issueLine_stw_unbound {s : State} {a : AddrExpr} {n : Name} (hn : lookupName s.host.names n = none) :
    issueLine (.stw a (.name n)) s = .unbound n := by
  simp [issueLine, assemble, valueOf, hn]

/-- Where HOST is chosen with a store of an expansion pending, a step is that store (R90). -/
theorem step_hostPending {s : State} {sch : List Agent} {st : Store} {rest : List Store} (hc : Clean s)
    (hch : choose { s with tick := s.tick + 1 } = some (.host, sch)) (hp : s.host.pending = st :: rest) :
    step s = exec (.hostStw st.addr st.value 4)
      { s with tick := s.tick + 1, sched := sch, host := { s.host with pending := rest } } :=
  step_of_issue hc hch (x := .run (.hostStw st.addr st.value 4)
    { s with tick := s.tick + 1, sched := sch, host := { s.host with pending := rest } }) (by simp [agentIssue, hostIssue, hp])

/-- Where HOST is chosen with no store pending, a step performs what its next line issues (R89, R152). -/
theorem step_hostLine {s : State} {sch : List Agent} {l : Line} {rest : List Line} (hc : Clean s)
    (hch : choose { s with tick := s.tick + 1 } = some (.host, sch)) (hp : s.host.pending = []) (hl : s.host.prog = l :: rest) :
    step s = perform (issueLine l { s with tick := s.tick + 1, sched := sch, host := { s.host with prog := rest } }) :=
  step_of_issue hc hch (by simp [agentIssue, hostIssue, hp, hl])

/-- Settles O5: each line issues its operation, with ADDR and VALUE as `addrOf` and `valueOf` evaluate them. -/
theorem stepRunsHostOperation : Obligations.StepRunsHostOperation := by
  intro s sch hc hch after addr value
  have haddr : ∀ a, addr a = addrOf s.cfg a := fun a => by cases a <;> rfl
  have hvalue : ∀ v w, value v = some w → valueOf s.cfg s.host.names v = .ok w := by
    intro v w h
    cases v with
    | name n => simp only [valueOf, show lookupName s.host.names n = some w from h]
    | _ => cases h; rfl
  refine ⟨fun st rest hp => step_hostPending hc hch hp, fun hp l rest hl => ?_⟩
  have run : ∀ {i}, issueLine l (after rest) = .run i (after rest) → step s = exec i (after rest) := fun h => by
    exact (step_hostLine hc hch hp hl).trans (congrArg perform h)
  refine ⟨?_, ?_, ?_, ?_, ?_, ?_, ?_, ?_, ?_, ?_⟩
  · rintro t i rfl hd hi
    exact run (issueLine_of_term rfl hd hi)
  · rintro b i rfl hd
    exact run (issueLine_of_access hd)
  · rintro a n rfl
    rw [haddr]
    exact run (issueLine_of_term rfl (Laws.RoundTrip.hostLdw _ 4 n) rfl)
  · rintro a v w rfl hv
    rw [haddr]
    exact run (issueLine_stw (hvalue v w hv))
  · rintro a n rfl hn
    exact (step_hostLine hc hch hp hl).trans (congrArg perform (issueLine_stw_unbound (s := after rest) hn))
  · rintro x y c rfl
    exact run (issueLine_of_term rfl (Laws.RoundTrip.pxSet x y c) rfl)
  · rintro x y n rfl
    exact run (issueLine_of_term rfl (Laws.RoundTrip.pxGet x y n) rfl)
  · rintro c rfl
    exact run (issueLine_of_term rfl (Laws.RoundTrip.pxFill c) rfl)
  · rintro rfl
    exact run (issueLine_of_term rfl Laws.RoundTrip.sysStart rfl)
  · rintro rfl
    exact run (issueLine_of_term rfl Laws.RoundTrip.sysStop rfl)

end Sys2Proof.Machine
end

section
/-! The invariant of the block: one rule for each operation on the state, that every way an operation can end keeps the invariant, and
that reset meets it (R22 to R24, R34, R36, R55, R60, R110). -/

namespace Sys2Proof.Machine

/-! ### The invariant under each operation on the state -/

/-- The invariant reads the block only, not the host's lists, the script and the step count. -/
theorem BlockInv.of_sameBlock {s t : State} (h : BlockInv s) (k : SameBlock s t) : BlockInv t where
  cfg := by rw [k.cfg]; exact h.cfg
  mem := by rw [MemOk, k.mem, k.cfg]; exact h.mem
  fifo := by rw [FifoOk, k.cgen, k.cfg]; exact h.fifo
  counters := by rw [CountersOk, k.hgen, k.vgen]; exact h.counters
  cgen := by rw [k.cgen]; exact h.cgen
  ch0 := by rw [k.ch0]; exact h.ch0
  ch1 := by rw [k.ch1]; exact h.ch1

/-- An optional update that keeps the invariant. -/
theorem BlockInv.ite {s t : State} (b : Bool) (h : BlockInv s) (k : BlockInv t) : BlockInv (if b then t else s) := by
  cases b
  · exact h
  · exact k

theorem BlockInv.recordFault {s : State} (h : BlockInv s) (f : FaultRec) : BlockInv (recordFault f s) := { h with }

theorem BlockInv.recordRefusal {s : State} (h : BlockInv s) (r : RefusalRec) : BlockInv (recordRefusal r s) := { h with }

theorem BlockInv.withPending {s : State} (h : BlockInv s) (l : List Store) : BlockInv (withPending l s) := { h with }

theorem BlockInv.raiseA {s : State} (h : BlockInv s) : BlockInv (raiseA s) := { h with }

theorem BlockInv.raiseB {s : State} (h : BlockInv s) : BlockInv (raiseB s) := { h with }

theorem BlockInv.clearFlags {s : State} (h : BlockInv s) (v : Word) : BlockInv (clearFlags v s) := { h with }

/-! A channel's BUSY and REMAIN (R36). -/

theorem BlockInv.chan {s : State} (h : BlockInv s) (c : Chan) : ChannelOk (chan s c) := by
  cases c
  · exact h.ch0
  · exact h.ch1

theorem BlockInv.setChan {s : State} (h : BlockInv s) (c : Chan) {k : Channel} (hk : ChannelOk k) : BlockInv (setChan c k s) := by
  cases c
  · exact { h with ch0 := hk }
  · exact { h with ch1 := hk }

theorem BlockInv.abort {s : State} (h : BlockInv s) (c : Chan) : BlockInv (abort c s) :=
  h.setChan c (by simp [ChannelOk])

/-- A trigger starts a run only with a count of at least 1 (R121). -/
theorem BlockInv.trigger {s t : State} {c : Chan} (h : BlockInv s) (ht : trigger c s = .ok t) : BlockInv t := by
  rcases trigger_ok ht with ⟨-, rfl⟩ | ⟨-, -, hn, -, rfl⟩
  · exact h
  · exact h.setChan c (by simpa [ChannelOk] using hn)

/-- The completion of a channel that a transfer left with REMAIN = 0 keeps the invariant, though BUSY is still 1 before it (R122). -/
theorem BlockInv.complete {s t : State} {c : Chan} {k : Channel} (h : BlockInv s) (hk : k.remain = 0)
    (ht : complete c (Machine.setChan c k s) = .ok t) : BlockInv t := by
  have hdone : BlockInv (Machine.setChan c { k with busy := false } s) := h.setChan c (by simp [ChannelOk, hk])
  rcases complete_ok ht with ⟨-, rfl⟩ | ⟨-, ht⟩
  · simpa using hdone
  · exact hdone.trigger (by simpa using ht)

/-- The end of a transfer: REMAIN counts down, and where it reaches 0 the run completes (R119). -/
theorem BlockInv.finishXfer {s t : State} {c : Chan} {ra wa : Word} (h : BlockInv s) (ht : finishXfer c ra wa s = .ok t) :
    BlockInv t := by
  rcases finishXfer_ok ht with ⟨-, rfl⟩ | ⟨hb, ⟨hr, ht⟩ | ⟨hr, rfl⟩⟩
  · exact h
  · exact h.complete hr ht
  · exact h.setChan c (by simpa [ChannelOk, hb] using hr)

/-! The counters of HGEN and VGEN (R22, R23). -/

/-- A count that fits a unit counter and is at least 1 is not 0 in it. -/
theorem ofNat_ne_zero {n : Nat} (h : 1 ≤ n ∧ n < 2 ^ 32) : BitVec.ofNat 32 n ≠ 0 := by
  intro h0
  have h1 := congrArg BitVec.toNat h0
  simp only [BitVec.ofNat_eq_ofNat, BitVec.toNat_ofNat] at h1
  omega

theorem BlockInv.restartH {s : State} (h : BlockInv s) : BlockInv (restartH s) :=
  { h with counters := ⟨ofNat_ne_zero (cfgFacts h.cfg).hap, h.counters.2⟩ }

theorem BlockInv.restartV {s : State} (h : BlockInv s) : BlockInv (restartV s) :=
  { h with counters := ⟨h.counters.1, ofNat_ne_zero ⟨(cfgFacts h.cfg).v1, (cfgFacts h.cfg).vmax⟩⟩ }

/-- A cycle of HGEN counts down from at least 2, or loads a count of at least 1. -/
theorem BlockInv.hgenCycle {s : State} (h : BlockInv s) (b : Bool) (ph : HPhase) {n : Nat} (hn : 1 ≤ n ∧ n < 2 ^ 32) :
    BlockInv (hgenCycle b ph n s) := by
  unfold Machine.hgenCycle
  split
  · exact { h with counters := ⟨ofNat_ne_zero hn, h.counters.2⟩ }
  · exact { h with counters := ⟨sub_ne_zero.2 ‹_›, h.counters.2⟩ }

/-- A line event counts down from at least 2, or loads a count of at least 1. -/
theorem BlockInv.vgenEvent {s : State} (h : BlockInv s) (b : Bool) (ph : VPhase) {n : Nat} (hn : 1 ≤ n ∧ n < 2 ^ 32) :
    BlockInv (vgenEvent b ph n s) := by
  unfold Machine.vgenEvent
  split
  · exact { h with counters := ⟨h.counters.1, ofNat_ne_zero hn⟩ }
  · exact { h with counters := ⟨h.counters.1, sub_ne_zero.2 ‹_›⟩ }

/-! CGEN and its FIFO (R24, R34, R110). -/

theorem BlockInv.restartC {s : State} (h : BlockInv s) : BlockInv (restartC s) :=
  { h with fifo := Nat.zero_le _, cgen := ⟨rfl, rfl, rfl⟩ }

theorem BlockInv.pushFifo {s t : State} {v : Word} (h : BlockInv s) (ht : pushFifo v s = .ok t) : BlockInv t := by
  obtain ⟨hlt, rfl⟩ := pushFifo_ok ht
  refine { h with fifo := ?_ }
  simp only [FifoOk, List.length_append, List.length_singleton]
  exact hlt

/-- A line starts with H pixels, a multiple of 10, and none in the shift register (R105, CFG1). -/
theorem BlockInv.take {s : State} (h : BlockInv s) (hp : s.cgen.phase = .waitb) :
    BlockInv { clearB s with cgen := { s.cgen with px := BitVec.ofNat 32 s.cfg.H, phase := .pixel } } := by
  have c := cfgFacts h.cfg
  obtain ⟨hosrn, hph⟩ := h.cgen
  obtain ⟨hpx, hdw⟩ : s.cgen.px = 0 ∧ s.cgen.dw = 0 := by simpa only [hp] using hph
  refine { h with cgen := ⟨?_, ofNat_ne_zero ⟨by have := c.h10; omega, c.hmax⟩, hdw⟩ }
  have h1 := c.h_eq
  simp only [hpx, pixelsPerWord, BitVec.ofNat_eq_ofNat, BitVec.toNat_ofNat, Nat.mod_eq_of_lt c.hmax] at hosrn ⊢
  omega

/-- CGEN with its shift register loaded where it is empty, as C.OUT drives from it. -/
def loaded (g : CGen) : CGen := if g.osrn = 0 then loadWord g else g

theorem loaded_px (g : CGen) : (loaded g).px = g.px := by unfold loaded; split <;> rfl

theorem loaded_dw (g : CGen) : (loaded g).dw = g.dw := by unfold loaded; split <;> rfl

theorem loaded_phase (g : CGen) : (loaded g).phase = g.phase := by unfold loaded; split <;> rfl

theorem loaded_osrn (g : CGen) : (loaded g).osrn = if g.osrn = 0 then 10 else g.osrn := by
  unfold loaded; split <;> rfl

theorem loaded_fifo_length (g : CGen) : (loaded g).fifo.length ≤ g.fifo.length := by
  unfold loaded
  split
  · simp [loadWord]
  · exact Nat.le_refl _

/-- A pixel of the line leaves the shift register one short of the pixels of the line left modulo 10: 9 after a load (R106, R110). -/
theorem loaded_osrn_sub_one {g : CGen} (h : g.osrn.toNat = g.px.toNat % pixelsPerWord) (hpx : g.px ≠ 0) :
    ((loaded g).osrn - 1).toNat = (g.px - 1).toNat % pixelsPerWord := by
  have hsub : (g.px - 1).toNat = g.px.toNat - 1 := by bv_omega
  rw [loaded_osrn, hsub]
  simp only [pixelsPerWord] at h ⊢
  split
  · bv_omega
  · bv_omega

/-- Driving a pixel keeps the line's accounting: the line then dwells on the pixel, goes on, or ends (R106). -/
theorem cgenOk_out {g : CGen} {n : Nat} (h : CgenOk g) (hp : g.phase = .pixel) (hn : n < 2 ^ 32) :
    CgenOk (drivePixel n (loaded g)) := by
  obtain ⟨hosrn, hph⟩ := h
  obtain ⟨hpx, hdw⟩ : g.px ≠ 0 ∧ g.dw = 0 := by simpa only [hp] using hph
  have hcount := loaded_osrn_sub_one hosrn hpx
  refine ⟨by simpa only [drivePixel, loaded_px] using hcount, ?_⟩
  by_cases hd : n > 1
  · simpa only [drivePixel, hd, if_true] using ofNat_ne_zero (n := n - 1) (by omega)
  · by_cases hlast : g.px - 1 = 0
    · simp only [drivePixel, loaded_px, loaded_dw, hd, hlast, hdw, if_true, if_false, and_self]
    · simp only [drivePixel, loaded_px, loaded_dw, loaded_phase, hd, hlast, hdw, hp, if_false, ne_eq, not_false_iff, and_self]

/-- C.OUT takes at most one word off the FIFO. -/
theorem BlockInv.out {s : State} (h : BlockInv s) (hp : s.cgen.phase = .pixel) :
    BlockInv { s with cgen := drivePixel s.cfg.C_PIX (loaded s.cgen) } :=
  { h with fifo := (loaded_fifo_length s.cgen).trans h.fifo, cgen := cgenOk_out h.cgen hp (cfgFacts h.cfg).cpix.2 }

/-- The end of a dwell cycle goes on with the line where it has a pixel left, and ends it where it has none (R108). -/
theorem BlockInv.dwell {s : State} (h : BlockInv s) :
    BlockInv { s with cgen := { s.cgen with
        dw := s.cgen.dw - 1
        phase := if s.cgen.dw - 1 = 0 then (if s.cgen.px = 0 then .blank else .pixel) else .dwell } } := by
  refine { h with cgen := ⟨h.cgen.1, ?_⟩ }
  by_cases hdw : s.cgen.dw - 1 = 0
  · by_cases hpx : s.cgen.px = 0
    · simp only [hdw, hpx, if_true, and_self]
    · simp only [hdw, hpx, if_true, if_false, ne_eq, not_false_iff, and_self]
  · simp only [hdw, if_false, ne_eq, not_false_iff]

theorem BlockInv.blank {s : State} (h : BlockInv s) (hp : s.cgen.phase = .blank) :
    BlockInv { s with cgen := { s.cgen with color := 0, phase := .waitb } } := by
  obtain ⟨hosrn, hph⟩ := h.cgen
  exact { h with cgen := ⟨hosrn, by simpa only [hp] using hph⟩ }

/-! ### The invariant under register writes, bus writes and transfers -/

theorem BlockInv.memWrite {s : State} {a : Word} {v : Word} (h : BlockInv s) (ha : inMemory s.cfg a = true) :
    BlockInv { s with mem := memWrite s.mem a.toNat v } := by
  obtain ⟨hwf, hin⟩ := h.mem
  simp only [inMemory, Bool.and_eq_true, decide_eq_true_eq] at ha
  refine { h with mem := ⟨memWf_memWrite _ _ _ hwf, fun x hx => ?_⟩ }
  rcases mem_memWrite _ _ _ _ hx with hx | hx
  · show s.cfg.MEM_BASE ≤ x.1 ∧ x.1 < s.cfg.MEM_BASE + s.cfg.MEM_SIZE
    omega
  · exact hin x hx

/-- A register write that does not fault keeps the invariant. -/
theorem BlockInv.writeReg {s t : State} {r : Reg} {v : Word} (h : BlockInv s) (ht : writeReg v s r = .ok t) : BlockInv t := by
  cases r with
  | seqCtrl =>
    obtain ⟨-, ht⟩ := checkReserved_ok ht
    cases ht
    have hH := h.ite (v.getLsbD 4) h.restartH
    have hV := hH.ite (v.getLsbD 5) hH.restartV
    exact { hV.ite (v.getLsbD 6) hV.restartC with }
  | seqFlags =>
    obtain ⟨-, ht⟩ := checkReserved_ok ht
    cases ht
    exact h.clearFlags v
  | seqFstat | chTransRemain c => cases ht
  | cgenTxf => exact h.pushFifo ht
  | chReadAddr c | chWriteAddr c | chTransCount c => cases ht; exact h.setChan c (h.chan c)
  | chCtrlTrig c =>
    have hs : BlockInv (storeCtrl c v s) := h.setChan c (h.chan c)
    obtain ⟨-, ht⟩ := checkReserved_ok ht
    split at ht
    · exact hs.trigger ht
    · cases ht; exact hs
  | chCtrl c =>
    obtain ⟨-, ht⟩ := checkReserved_ok ht
    cases ht
    exact h.setChan c (h.chan c)
  | chReadAddrTrig c => exact (h.setChan c (k := { Machine.chan s c with readAddr := v }) (h.chan c)).trigger ht
  | chanAbort =>
    obtain ⟨-, ht⟩ := checkReserved_ok ht
    cases ht
    have h0 := h.ite (v.getLsbD 0) (h.abort .ch0)
    exact h0.ite (v.getLsbD 1) (h0.abort .ch1)

theorem BlockInv.busWrite {s t : State} {a v : Word} (h : BlockInv s) (ht : busWrite s a v = .ok t) : BlockInv t := by
  obtain ⟨-, ⟨r, -, -, hw⟩ | ⟨-, hm, rfl⟩⟩ := busWrite_ok ht
  · exact h.writeReg hw
  · exact h.memWrite hm

theorem BlockInv.xfer {s t : State} {c : Chan} (h : BlockInv s) (ht : xfer c s = .ok t) : BlockInv t := by
  obtain ⟨v, u, -, hw, hx⟩ := xfer_ok ht
  exact (h.busWrite hw).finishXfer hx

/-! ### The invariant under every operation and every step -/

/-- HGEN performs a phase's operation only in that phase, enabled (R91). -/
theorem hgenIn_true {ph : HPhase} {s : State} (h : hgenIn ph s = true) : unitEnabled s 0 = true ∧ s.hgen.phase = ph := by
  simp only [hgenIn, Bool.and_eq_true, decide_eq_true_eq] at h
  exact ⟨h.1.2, h.2⟩

/-- VGEN consumes a line event in a phase only in that phase, enabled, with FLAG_A set (R91). -/
theorem vgenIn_true {ph : VPhase} {s : State} (h : vgenIn ph s = true) : unitEnabled s 1 = true ∧ s.flagA = true := by
  simp only [vgenIn, Bool.and_eq_true] at h
  exact ⟨h.1.1.2, h.1.2⟩

/-- CGEN performs a phase's operation only in that phase, enabled (R91). -/
theorem cgenIn_true {ph : CPhase} {s : State} (h : cgenIn ph s = true) : unitEnabled s 2 = true ∧ s.cgen.phase = ph := by
  simp only [cgenIn, Bool.and_eq_true, decide_eq_true_eq] at h
  exact ⟨h.1.2, h.2⟩

/-- However an operation ends, the invariant holds after it. -/
theorem Effect.blockInv {i : Instr} {s t : State} (e : Effect i s t) (h : BlockInv s) : BlockInv t := by
  have c := cfgFacts h.cfg
  cases e with
  | fault _ _ f => exact h.recordFault f
  | refusal _ _ r => exact h.recordRefusal r
  | hAp => exact h.hgenCycle _ _ c.hsp
  | hSp => exact h.hgenCycle _ _ c.hbp
  | hBp =>
    split
    · exact h.raiseA.hgenCycle _ _ c.hap
    · exact h.hgenCycle _ _ c.hap
  | vVis => exact (h.vgenEvent _ _ c.vfp).raiseB
  | vFp => exact h.vgenEvent _ _ c.vspl
  | vSplHigh _ _ hv => exact h.vgenEvent _ _ ⟨hv, c.vsph⟩
  | vSplBack | vSph => exact h.vgenEvent _ _ c.vbp
  | vBp => exact h.vgenEvent _ _ ⟨c.v1, c.vmax⟩
  | vHold | cWait | cStall | pxFillNone => exact h
  | cTake _ hc => exact h.take (cgenIn_true hc.1).2
  | cOut _ hc => exact h.out (cgenIn_true hc.1).2
  | cDwell => exact h.dwell
  | cBlank _ hc => exact h.blank (cgenIn_true hc).2
  | dmaXfer _ _ _ _ hx => exact h.xfer hx
  | dmaTrigger _ _ _ hx => exact h.trigger hx
  | dmaAbort ch => exact h.abort ch
  | pxSet => exact h.withPending _
  | pxXlate | pxMask | pxGet | hostLdw | readReg => exact { h with }
  | pxFill _ _ _ _ _ _ hb | sysStart _ _ _ hb | sysStop _ _ hb => exact (h.withPending _).busWrite hb
  | hostStw _ _ _ _ hb => exact h.busWrite hb
  | writeReg _ _ _ _ hw => exact h.writeReg hw

/-- Settles O13: a step is one operation, or a record, from a state with the same block, and each operation keeps the invariant. -/
theorem stepKeepsInvariant : Obligations.StepKeepsInvariant := by
  intro s t h hst
  obtain ⟨u, hu, -, -, ⟨i, hi⟩ | ⟨r, rfl⟩ | ⟨f, rfl⟩⟩ := step_cases hst
  · exact (exec_effect hi).2.blockInv (h.of_sameBlock hu)
  · exact (h.of_sameBlock hu).recordRefusal r
  · exact (h.of_sameBlock hu).recordFault f

/-- Block reset with a configuration that passes CFG meets the invariant (R55). -/
theorem blockInv_resetWith {p : Params} (hp : p.cfgOk = true) : BlockInv (State.resetWith p) where
  cfg := hp
  mem := ⟨memWf_reset p, fun c hc => absurd hc (List.not_mem_nil)⟩
  fifo := Nat.zero_le _
  counters := ⟨ofNat_ne_zero (cfgFacts hp).hap, ofNat_ne_zero ⟨(cfgFacts hp).v1, (cfgFacts hp).vmax⟩⟩
  cgen := ⟨rfl, rfl, rfl⟩
  ch0 := by simp [ChannelOk, State.resetWith, initChannel]
  ch1 := by simp [ChannelOk, State.resetWith, initChannel]

/-- Settles O12: the launch configuration passes CFG, so it is one case of the first clause. -/
theorem resetMeetsInvariant : Obligations.ResetMeetsInvariant :=
  ⟨fun _ => blockInv_resetWith, blockInv_resetWith (by decide)⟩

end Sys2Proof.Machine
end

section
/-! Who writes the generators' registers, COLOR_OUT and the flags: what each operation can do to them, said once for all operations, and
the statements on their writers (R22 to R27, R31 to R33, R92, R113, R165, R166, R168). -/

namespace Sys2Proof.Machine

/-! ### Operations that leave the units alone -/

/-- The generators with their outputs and FIFO, the flags and the draws counted are the same, under the same configuration. -/
structure SameUnits (s t : State) : Prop where
  cfg : t.cfg = s.cfg
  hgen : t.hgen = s.hgen
  vgen : t.vgen = s.vgen
  cgen : t.cgen = s.cgen
  flagA : t.flagA = s.flagA
  flagB : t.flagB = s.flagB
  draws : t.draws = s.draws

theorem SameUnits.refl (s : State) : SameUnits s s := ⟨rfl, rfl, rfl, rfl, rfl, rfl, rfl⟩

theorem SameUnits.trans {s t u : State} (h : SameUnits s t) (k : SameUnits t u) : SameUnits s u :=
  ⟨k.cfg.trans h.cfg, k.hgen.trans h.hgen, k.vgen.trans h.vgen, k.cgen.trans h.cgen, k.flagA.trans h.flagA,
    k.flagB.trans h.flagB, k.draws.trans h.draws⟩

theorem sameUnits_withPending (l : List Store) (s : State) : SameUnits s (withPending l s) :=
  ⟨rfl, rfl, rfl, rfl, rfl, rfl, rfl⟩

theorem sameUnits_mem (m : List Host.Cell) (s : State) : SameUnits s { s with mem := m } :=
  ⟨rfl, rfl, rfl, rfl, rfl, rfl, rfl⟩

/-- An optional update that leaves the units alone. -/
theorem SameUnits.ite {s t u : State} (b : Bool) (h : SameUnits s t) (k : SameUnits s u) : SameUnits s (if b then u else t) := by
  cases b
  · exact h
  · exact k

theorem sameUnits_setChan (c : Chan) (k : Channel) (s : State) : SameUnits s (setChan c k s) := by
  cases c <;> exact ⟨rfl, rfl, rfl, rfl, rfl, rfl, rfl⟩

theorem sameUnits_abort (c : Chan) (s : State) : SameUnits s (abort c s) := sameUnits_setChan _ _ _

theorem sameUnits_trigger {c : Chan} {s t : State} (h : trigger c s = .ok t) : SameUnits s t := by
  rcases trigger_ok h with ⟨-, rfl⟩ | ⟨-, -, -, -, rfl⟩
  · exact SameUnits.refl _
  · exact sameUnits_setChan _ _ _

theorem sameUnits_complete {c : Chan} {s t : State} (h : complete c s = .ok t) : SameUnits s t := by
  rcases complete_ok h with ⟨-, rfl⟩ | ⟨-, h⟩
  · exact sameUnits_setChan _ _ _
  · exact (sameUnits_setChan _ _ _).trans (sameUnits_trigger h)

theorem sameUnits_finishXfer {c : Chan} {ra wa : Word} {s t : State} (h : finishXfer c ra wa s = .ok t) : SameUnits s t := by
  rcases finishXfer_ok h with ⟨-, rfl⟩ | ⟨-, ⟨-, h⟩ | ⟨-, rfl⟩⟩
  · exact SameUnits.refl _
  · exact (sameUnits_setChan _ _ _).trans (sameUnits_complete h)
  · exact sameUnits_setChan _ _ _

/-! ### Register writes that reach the units -/

/-- What a write of the value to the register leaves of the units: SEQ_CTRL restarts those its bits select, SEQ_FLAGS clears the flags,
CGEN_TXF pushes the word (R165, R166, R168). -/
inductive UnitWrite (s t : State) : Reg → Word → Prop where
  | restart (v : Word)
      (hgen : t.hgen = if v.getLsbD 4 then initHGen s.cfg else s.hgen)
      (vgen : t.vgen = if v.getLsbD 5 then initVGen s.cfg else s.vgen)
      (cgen : t.cgen = if v.getLsbD 6 then initCGen (Config.latchDraw s.draws) else s.cgen)
      (draws : t.draws = if v.getLsbD 6 then s.draws + 1 else s.draws)
      (flagA : t.flagA = s.flagA) (flagB : t.flagB = s.flagB) : UnitWrite s t .seqCtrl v
  | flags (v : Word) (same : SameUnits (clearFlags v s) t) : UnitWrite s t .seqFlags v
  | push (v : Word) (room : fifoLevel s < s.cfg.F)
      (same : SameUnits { s with cgen := { s.cgen with fifo := s.cgen.fifo ++ [v] } } t) : UnitWrite s t .cgenTxf v

/-- What a write does to the units does not depend on the host's stores to come. -/
theorem UnitWrite.of_withPending {s t : State} {l : List Store} {r : Reg} {v : Word} (h : UnitWrite (withPending l s) t r v) :
    UnitWrite s t r v := by
  cases h with
  | restart _ hgen vgen cgen draws flagA flagB => exact .restart v hgen vgen cgen draws flagA flagB
  | flags _ same => exact .flags v { same with }
  | push _ room same => exact .push v room { same with }

/-- What a write does to the units does not depend on the rest of the state after it. -/
theorem UnitWrite.of_after {s t t' : State} {r : Reg} {v : Word} (h : UnitWrite s t r v) (k : SameUnits t t') : UnitWrite s t' r v := by
  cases h with
  | restart _ hgen vgen cgen draws flagA flagB =>
    exact .restart v (k.hgen.trans hgen) (k.vgen.trans vgen) (k.cgen.trans cgen) (k.draws.trans draws) (k.flagA.trans flagA)
      (k.flagB.trans flagB)
  | flags _ same => exact .flags v (same.trans k)
  | push _ room same => exact .push v room (same.trans k)

/-- A register write that does not fault leaves the units alone, or is one of the three writes that reach them. -/
theorem writeReg_units {v : Word} {s t : State} {r : Reg} (h : writeReg v s r = .ok t) : SameUnits s t ∨ UnitWrite s t r v := by
  cases r with
  | seqCtrl =>
    obtain ⟨-, -, hA, hB, -, -, -, hh, hv, hc, hd⟩ := writeSeqCtrl_ok h
    exact Or.inr (.restart v hh hv hc hd hA hB)
  | seqFlags =>
    obtain ⟨-, h⟩ := checkReserved_ok h
    cases h
    exact Or.inr (.flags v (SameUnits.refl _))
  | seqFstat | chTransRemain c => cases h
  | cgenTxf =>
    obtain ⟨hlt, rfl⟩ := pushFifo_ok h
    exact Or.inr (.push v hlt (SameUnits.refl _))
  | chReadAddr c | chWriteAddr c | chTransCount c => cases h; exact Or.inl (sameUnits_setChan _ _ _)
  | chCtrlTrig c =>
    obtain ⟨-, h⟩ := checkReserved_ok h
    split at h
    · exact Or.inl ((sameUnits_setChan _ _ _).trans (sameUnits_trigger h))
    · cases h; exact Or.inl (sameUnits_setChan _ _ _)
  | chCtrl c =>
    obtain ⟨-, h⟩ := checkReserved_ok h
    cases h
    exact Or.inl (sameUnits_setChan _ _ _)
  | chReadAddrTrig c => exact Or.inl ((sameUnits_setChan _ _ _).trans (sameUnits_trigger h))
  | chanAbort =>
    obtain ⟨-, h⟩ := checkReserved_ok h
    cases h
    have h0 := SameUnits.ite (v.getLsbD 0) (SameUnits.refl s) (sameUnits_abort .ch0 s)
    exact Or.inl (h0.ite (v.getLsbD 1) (h0.trans (sameUnits_abort .ch1 _)))

/-- A bus write that does not fault leaves the units alone, or writes a register at the address and so reaches them. -/
theorem busWrite_units {a v : Word} {s t : State} (h : busWrite s a v = .ok t) :
    SameUnits s t ∨ ∃ r, UnitWrite s t r v ∧ (s.cfg.BLK_BASE % 4 = 0 → IsRegAddr s.cfg a r) := by
  obtain ⟨-, ⟨r, hw, hr, h⟩ | ⟨-, -, rfl⟩⟩ := busWrite_ok h
  · exact (writeReg_units h).imp_right fun h => ⟨r, h, fun hb => isRegAddr_of_regAt hb hw hr⟩
  · exact Or.inl (sameUnits_mem _ _)

/-! ### Everything an operation can do to the units -/

/-- The ways an operation can change the units: not at all; as an operation of the generator itself, enabled; or by a write that reaches
them, which under a configuration that passes CFG is a write of that register by the operation (R92, R114). -/
inductive UnitsChange (i : Instr) (s t : State) : Prop where
  | same (h : SameUnits s t)
  | hgen (he : unitEnabled s 0 = true) (hi : i ∈ [Instr.hAp, .hSp, .hBp]) (hv : t.vgen = s.vgen) (hc : t.cgen = s.cgen)
      (hB : t.flagB = s.flagB) (hA : t.flagA = s.flagA ∨ (i = .hBp ∧ s.hgen.cnt = 1 ∧ t.flagA = true))
  | vgen (he : unitEnabled s 1 = true) (hi : i ∈ [Instr.vVis, .vFp, .vSpl, .vSph, .vBp]) (hh : t.hgen = s.hgen)
      (hc : t.cgen = s.cgen) (hA : t.flagA = false) (hB : t.flagB = s.flagB ∨ (i = .vVis ∧ t.flagB = true))
  | cgen (he : unitEnabled s 2 = true) (hi : i ∈ [Instr.cTake, .cOut, .cDwell, .cBlank]) (hh : t.hgen = s.hgen)
      (hv : t.vgen = s.vgen) (hA : t.flagA = s.flagA) (hB : t.flagB = s.flagB ∨ (i = .cTake ∧ t.flagB = false))
      (hcol : t.cgen.color = s.cgen.color ∨ (i = .cBlank ∧ t.cgen.color = 0) ∨
        (i = .cOut ∧ t.cgen.color = (if s.cgen.osrn = 0 then s.cgen.next else s.cgen.osr).extractLsb' 0 3))
  | write (r : Reg) (v : Word) (h : UnitWrite s t r v) (hw : s.cfg.cfgOk = true → WritesReg i s r v)

/-! HGEN's cycle and VGEN's line event change nothing but the generator and, for a line event, FLAG_A. -/

@[simp] theorem hgenCycle_vgen (b : Bool) (ph : HPhase) (n : Nat) (s : State) : (hgenCycle b ph n s).vgen = s.vgen := by
  unfold hgenCycle; split <;> rfl

@[simp] theorem hgenCycle_cgen (b : Bool) (ph : HPhase) (n : Nat) (s : State) : (hgenCycle b ph n s).cgen = s.cgen := by
  unfold hgenCycle; split <;> rfl

@[simp] theorem hgenCycle_flagA (b : Bool) (ph : HPhase) (n : Nat) (s : State) : (hgenCycle b ph n s).flagA = s.flagA := by
  unfold hgenCycle; split <;> rfl

@[simp] theorem hgenCycle_flagB (b : Bool) (ph : HPhase) (n : Nat) (s : State) : (hgenCycle b ph n s).flagB = s.flagB := by
  unfold hgenCycle; split <;> rfl

@[simp] theorem vgenEvent_hgen (b : Bool) (ph : VPhase) (n : Nat) (s : State) : (vgenEvent b ph n s).hgen = s.hgen := by
  unfold vgenEvent; split <;> rfl

@[simp] theorem vgenEvent_cgen (b : Bool) (ph : VPhase) (n : Nat) (s : State) : (vgenEvent b ph n s).cgen = s.cgen := by
  unfold vgenEvent; split <;> rfl

@[simp] theorem vgenEvent_flagA (b : Bool) (ph : VPhase) (n : Nat) (s : State) : (vgenEvent b ph n s).flagA = false := by
  unfold vgenEvent; split <;> rfl

@[simp] theorem vgenEvent_flagB (b : Bool) (ph : VPhase) (n : Nat) (s : State) : (vgenEvent b ph n s).flagB = s.flagB := by
  unfold vgenEvent; split <;> rfl

/-- A cycle of an enabled HGEN that raises no flag. -/
theorem UnitsChange.of_hgenCycle {i : Instr} {s : State} {ph : HPhase} (h : hgenIn ph s = true) (hi : i ∈ [Instr.hAp, .hSp, .hBp])
    (b : Bool) (nxt : HPhase) (n : Nat) : UnitsChange i s (hgenCycle b nxt n s) :=
  .hgen (hgenIn_true h).1 hi (by simp) (by simp) (by simp) (Or.inl (by simp))

/-- A line event of an enabled VGEN that raises no flag. -/
theorem UnitsChange.of_vgenEvent {i : Instr} {s : State} {ph : VPhase} (h : vgenIn ph s = true)
    (hi : i ∈ [Instr.vVis, .vFp, .vSpl, .vSph, .vBp]) (b : Bool) (nxt : VPhase) (n : Nat) : UnitsChange i s (vgenEvent b nxt n s) :=
  .vgen (vgenIn_true h).1 hi (by simp) (by simp) (by simp) (Or.inl (by simp))

/-- The first store of an expansion is a bus write; where CFG makes it leave the units alone, it is no write that reaches them. -/
theorem UnitsChange.of_firstStore {i : Instr} {s t : State} {l : List Store} {a v : Word}
    (h : busWrite (withPending l s) a v = .ok t) (hcfg : s.cfg.cfgOk = true → SameUnits (withPending l s) t) : UnitsChange i s t := by
  by_cases hs : SameUnits s t
  · exact .same hs
  · have hno : s.cfg.cfgOk ≠ true := fun hc => hs ((sameUnits_withPending l s).trans (hcfg hc))
    obtain h | ⟨r, h, -⟩ := busWrite_units h
    · exact .same ((sameUnits_withPending l s).trans h)
    · exact .write r v h.of_withPending fun hc => absurd hc hno

/-- The first store of fill_all is to framebuffer word 0 (R145). -/
theorem addr_of_fillStores {p : Params} {c : Nat} {st : Store} {l : List Store} (h : fillStores p c = st :: l) :
    0 < p.N ∧ st.addr = fbAddr p 0 := by
  cases hN : p.N with
  | zero => simp [fillStores, hN] at h
  | succ n =>
    rw [fillStores, hN, List.range_succ_eq_map, List.map_cons] at h
    cases h
    exact ⟨Nat.succ_pos n, rfl⟩

/-- However an operation ends, it changes the units in one of the ways listed. -/
theorem Effect.unitsChange {i : Instr} {s t : State} (hcl : Clean s) (e : Effect i s t) : UnitsChange i s t := by
  cases e with
  | fault | refusal | pxXlate | pxMask | pxSet | pxGet | hostLdw | readReg => exact .same ⟨rfl, rfl, rfl, rfl, rfl, rfl, rfl⟩
  | vHold | cWait | cStall | pxFillNone => exact .same (SameUnits.refl s)
  | hAp _ h | hSp _ h => exact .of_hgenCycle h (by simp) _ _ _
  | hBp _ h =>
    by_cases hcnt : s.hgen.cnt = 1
    · rw [if_pos hcnt]
      exact .hgen (hgenIn_true h).1 (by simp) (by simp) (by simp) (by simp) (Or.inr ⟨rfl, hcnt, by simp⟩)
    · rw [if_neg hcnt]
      exact .of_hgenCycle h (by simp) _ _ _
  | vVis _ h => exact .vgen (vgenIn_true h).1 (by simp) (by simp) (by simp) (by simp) (Or.inr ⟨rfl, rfl⟩)
  | vFp _ h | vSplHigh _ h | vSplBack _ h | vSph _ h | vBp _ h => exact .of_vgenEvent h (by simp) _ _ _
  | cTake _ h => exact .cgen (cgenIn_true h.1).1 (by simp) rfl rfl rfl (Or.inr ⟨rfl, rfl⟩) (Or.inl rfl)
  | cOut _ h =>
    refine .cgen (cgenIn_true h.1).1 (by simp) rfl rfl rfl (Or.inl rfl) (Or.inr (Or.inr ⟨rfl, ?_⟩))
    simp only [drivePixel]
    split <;> rfl
  | cDwell _ h => exact .cgen (cgenIn_true h).1 (by simp) rfl rfl rfl (Or.inl rfl) (Or.inl rfl)
  | cBlank _ h => exact .cgen (cgenIn_true h).1 (by simp) rfl rfl rfl (Or.inl rfl) (Or.inr (Or.inl ⟨rfl, rfl⟩))
  | dmaXfer c _ _ _ hx =>
    obtain ⟨v, u, hr, hw, hf⟩ := xfer_ok hx
    obtain h | ⟨r, h, hreg⟩ := busWrite_units hw
    · exact .same (h.trans (sameUnits_finishXfer hf))
    · refine .write r v (h.of_after (sameUnits_finishXfer hf)) fun hc => ?_
      have hb := (cfgFacts hc).aligned.2.2.1
      exact Or.inr (Or.inr ⟨c, rfl, (busRead_iff_readsWord hcl hb).1 hr, hreg hb⟩)
  | dmaTrigger _ _ _ hx => exact .same (sameUnits_trigger hx)
  | dmaAbort c => exact .same (sameUnits_abort c s)
  | pxFill c _ _ st l hf hb =>
    refine .of_firstStore hb fun hc => ?_
    obtain ⟨hN, ha⟩ := addr_of_fillStores hf
    rw [ha, busWrite_fbAddr (withPending_cfg _ _) (cfgFacts hc) hN] at hb
    cases hb
    exact sameUnits_mem _ _
  | sysStart _ _ _ hb =>
    refine .of_firstStore hb fun hc => ?_
    rw [busWrite_basePtr (withPending_cfg _ _) (cfgFacts hc)] at hb
    cases hb
    exact sameUnits_mem _ _
  | sysStop _ _ hb =>
    refine .of_firstStore hb fun hc => ?_
    rw [busWrite_regAddr (cfgFacts hc) (withPending_cfg _ _)] at hb
    obtain h | h := writeReg_units hb
    · exact h
    · cases h
  | hostStw a v _ _ hb =>
    obtain h | ⟨r, h, hreg⟩ := busWrite_units hb
    · exact .same h
    · exact .write r v h fun hc => Or.inr (Or.inl ⟨a, rfl, hreg (cfgFacts hc).aligned.2.2.1⟩)
  | writeReg r v _ _ hw =>
    obtain h | h := writeReg_units hw
    · exact .same h
    · exact .write r v h fun _ => Or.inl rfl

/-- What an operation that answers a next state does to the units. -/
theorem exec_unitsChange {i : Instr} {s t : State} (h : exec i s = .next t) : UnitsChange i s t :=
  (exec_effect h).2.unitsChange (exec_next_clean h)

/-- What a unit's bit of a write to SEQ_CTRL leaves of the unit: it is as before, or restarted by the bit (R165). -/
theorem eq_or_restarted {α : Type} {after initial before : α} {v : Word} {bit : Nat}
    (h : after = if v.getLsbD bit then initial else before) : after = before ∨ (v.getLsbD bit = true ∧ after = initial) := by
  by_cases hb : v.getLsbD bit = true
  · exact Or.inr ⟨hb, h.trans (if_pos hb)⟩
  · exact Or.inl (h.trans (if_neg hb))

/-- Settles O20: one case for each way an operation can change the units; only a write reaches more than one of them. -/
theorem generatorRegistersHaveOneWriter : Obligations.GeneratorRegistersHaveOneWriter := by
  intro i s t hcfg hex restarts
  cases exec_unitsChange hex with
  | same h => exact ⟨Or.inl h.hgen, Or.inl h.vgen, Or.inl h.cgen⟩
  | hgen he hi hv hc => exact ⟨Or.inr (Or.inr ⟨he, hi⟩), Or.inl hv, Or.inl hc⟩
  | vgen he hi hh hc => exact ⟨Or.inl hh, Or.inr (Or.inr ⟨he, hi⟩), Or.inl hc⟩
  | cgen he hi hh hv => exact ⟨Or.inl hh, Or.inl hv, Or.inr (Or.inr (Or.inr ⟨he, hi⟩))⟩
  | write r v h hw =>
    cases h with
    | restart _ hgen vgen cgen =>
      have hr : ∀ {bit : Nat}, v.getLsbD bit = true → restarts bit := fun hb => ⟨v, hw hcfg, hb⟩
      exact ⟨(eq_or_restarted hgen).imp_right fun h => Or.inl ⟨hr h.1, h.2⟩,
        (eq_or_restarted vgen).imp_right fun h => Or.inl ⟨hr h.1, h.2⟩,
        (eq_or_restarted cgen).imp_right fun h => Or.inr (Or.inl ⟨hr h.1, h.2⟩)⟩
    | flags _ same => exact ⟨Or.inl same.hgen, Or.inl same.vgen, Or.inl same.cgen⟩
    | push _ room same => exact ⟨Or.inl same.hgen, Or.inl same.vgen, Or.inr (Or.inl ⟨v, hw hcfg, room, same.cgen⟩)⟩

/-- Settles O21: of the ways an operation can change the units, those that change COLOR_OUT. -/
theorem colorOutWriters : Obligations.ColorOutWriters := by
  refine ⟨fun _ _ => rfl, fun i s t hex hne => ?_⟩
  cases exec_unitsChange hex with
  | same h => exact absurd (congrArg CGen.color h.cgen) hne
  | hgen he hi hv hc => exact absurd (congrArg CGen.color hc) hne
  | vgen he hi hh hc => exact absurd (congrArg CGen.color hc) hne
  | cgen he hi hh hv hA hB hcol =>
    obtain h | h | ⟨rfl, h⟩ := hcol
    · exact absurd h hne
    · exact Or.inr (Or.inl h)
    · exact Or.inl ⟨rfl, _, rfl, h⟩
  | write r v h =>
    cases h with
    | restart _ hgen vgen cgen draws =>
      obtain h | ⟨hb, h⟩ := eq_or_restarted cgen
      · exact absurd (congrArg CGen.color h) hne
      · exact Or.inr (Or.inr (by rw [h]; exact ⟨rfl, rfl, rfl, draws.trans (if_pos hb)⟩))
    | flags _ same => exact absurd (congrArg CGen.color same.cgen) hne
    | push _ room same => exact absurd (congrArg CGen.color same.cgen) hne

/-- A write to SEQ_FLAGS with a bit set is the register write or a HOST.STW with that bit, or a transfer to its address (R166). -/
theorem WritesReg.seqFlags_cases {i : Instr} {s : State} {v : Word} {k : Nat} (h : WritesReg i s .seqFlags v) (hv : v.getLsbD k = true) :
    (∃ v, i = .wrSeqFlags v ∧ v.getLsbD k = true) ∨
      (∃ a v, i = .hostStw a v 4 ∧ a.toNat = s.cfg.BLK_BASE + 4 ∧ v.getLsbD k = true) ∨
      (∃ c, i = .dmaXfer c ∧ (chan s c).writeAddr.toNat = s.cfg.BLK_BASE + 4) := by
  obtain hi | ⟨a, hi, -, ha⟩ | ⟨c, hi, -, -, ha⟩ := h
  · exact Or.inl ⟨v, hi, hv⟩
  · exact Or.inr (Or.inl ⟨a, v, hi, ha, hv⟩)
  · exact Or.inr (Or.inr ⟨c, hi, ha⟩)

/-- Settles O22: a flag that is not the same after an operation was written by its producer, its consumer or a write that clears it. -/
theorem flagWriters : Obligations.FlagWriters := by
  intro i s t hcfg hex
  cases exec_unitsChange hex with
  | same h => rw [h.flagA, h.flagB]; simp +contextual
  | hgen he hi hv hc hB hA =>
    obtain hA | ⟨hi, hcnt, hA⟩ := hA
    · rw [hA, hB]; simp +contextual
    · rw [hA, hB]; simp +contextual [hi, hcnt]
  | vgen he hi hh hc hA hB =>
    obtain hB | ⟨hi, hB⟩ := hB
    · rw [hA, hB]; simp +contextual [hi]
    · rw [hA, hB]; simp +contextual [hi]
  | cgen he hi hh hv hA hB =>
    obtain hB | ⟨hi, hB⟩ := hB
    · rw [hA, hB]; simp +contextual
    · rw [hA, hB]; simp +contextual [hi]
  | write r v h hw =>
    cases h with
    | restart _ _ _ _ _ hA hB => rw [hA, hB]; simp +contextual
    | push _ _ same => rw [same.flagA, same.flagB]; simp +contextual
    | flags _ same =>
      rw [same.flagA, same.flagB]
      refine ⟨by simp +contextual, by simp +contextual, fun hA h => Or.inr ?_, fun hB h => Or.inr ?_⟩
      · exact (hw hcfg).seqFlags_cases (by simpa [hA] using h)
      · exact (hw hcfg).seqFlags_cases (by simpa [hB] using h)

end Sys2Proof.Machine
end

section
/-! Block reset (R55), the control word read back (R47, R83, R172), and HIGH_PRIORITY (R52). -/

namespace Sys2Proof.Machine

/-! ### The registers after block reset (R55) -/

/-- Each channel is idle after block reset. -/
theorem chan_resetWith (p : Params) (c : Chan) : chan (State.resetWith p) c = initChannel := by cases c <;> rfl

/-- The words the readable registers hold after block reset: the FIFO is empty, everything else is 0. -/
theorem readReg_resetWith {p : Params} (hf : 1 ≤ p.F) {r : Reg} {v : Word} (h : readReg (State.resetWith p) r = .ok v) :
    v = if r = .seqFstat then 0x00000200 else 0 := by
  cases r with
  | cgenTxf | chanAbort => cases h
  | seqFstat =>
    have hfull : txFull (State.resetWith p) = false := by
      simp only [txFull, beq_eq_false_iff_ne]
      exact fun h0 => by simp only [fifoLevel, State.resetWith, initCGen, List.length_nil] at h0; omega
    cases h
    rw [seqFstatWord, hfull, if_pos rfl]
    change bitWord true <<< 9 ||| bitWord false <<< 8 ||| BitVec.ofNat 32 0 = 0x00000200
    decide
  | seqCtrl => cases h; rfl
  | seqFlags =>
    cases h
    rw [if_neg (by simp)]
    change bitWord false <<< 1 ||| bitWord false = 0
    decide
  | chReadAddr c | chWriteAddr c | chTransCount c | chCtrlTrig c | chCtrl c | chReadAddrTrig c | chTransRemain c =>
    cases h
    rw [chan_resetWith]
    rfl

/-- Settles O10: each field as `State.resetWith` sets it, and what the registers then read. -/
theorem resetValues : Obligations.ResetValues := by
  intro p hp s
  refine ⟨⟨rfl, rfl, rfl⟩, ⟨rfl, rfl, rfl⟩, ⟨rfl, rfl, rfl, rfl, rfl, rfl, rfl⟩, rfl, rfl, rfl, fun c => ?_, rfl, ?_,
    fun r v => readReg_resetWith (cfgFacts hp).f.1, rfl, rfl, fun i => ?_⟩
  · rw [chan_resetWith]
    exact ⟨rfl, rfl, rfl, rfl, rfl, rfl, rfl, rfl, rfl, rfl, rfl, rfl⟩
  · simp [s, State.resetWith, hp]
  · exact BitVec.getLsbD_zero

/-! ### The control word (R47) -/

/-- A bit as a word is bit 0 of the word. -/
theorem getLsbD_bitWord (b : Bool) (i : Nat) : (bitWord b).getLsbD i = (b && decide (i = 0)) := by
  cases b
  · simp [bitWord]
  · simp [bitWord, BitVec.getLsbD_one]

/-- The control word of the fields of a value has the value's bits outside the reserved mask, and BUSY at bit 24 (R46, R47, R83). -/
theorem getLsbD_ctrlWord_ctrlOfWord (v : Word) (busy : Bool) (i : Nat) (hi : i < 32) :
    (ctrlWord (ctrlOfWord v) busy).getLsbD i = if i = 24 then busy else v.getLsbD i && !ctrlReserved.getLsbD i := by
  simp only [ctrlWord, ctrlOfWord, BitVec.getLsbD_or, BitVec.getLsbD_shiftLeft, BitVec.getLsbD_setWidth, getLsbD_bitWord,
    BitVec.getLsbD_extractLsb']
  interval_cases i <;> simp [ctrlReserved]

/-- A value with no reserved bit set reads back as written, but for bit 24. -/
theorem ctrlWord_ctrlOfWord {v : Word} (hv : v &&& ctrlReserved = 0) (busy : Bool) :
    ctrlWord (ctrlOfWord v) busy = if busy then v ||| 0x01000000 else v &&& 0xFEFFFFFF := by
  have hset : ∀ i < 32, (0x01000000 : Word).getLsbD i = decide (i = 24) := by decide
  have hclear : ∀ i < 32, (0xFEFFFFFF : Word).getLsbD i = !decide (i = 24) := by decide
  apply BitVec.eq_of_getLsbD_eq
  intro i hi
  have hres : (v.getLsbD i && !ctrlReserved.getLsbD i) = v.getLsbD i := by
    have h0 : (v.getLsbD i && ctrlReserved.getLsbD i) = false := by rw [← BitVec.getLsbD_and, hv]; exact BitVec.getLsbD_zero
    cases hvi : v.getLsbD i
    · rfl
    · simpa [hvi] using h0
  rw [getLsbD_ctrlWord_ctrlOfWord v busy i hi, hres]
  cases busy
  · change _ = (v &&& 0xFEFFFFFF).getLsbD i
    rw [BitVec.getLsbD_and, hclear i hi]
    by_cases h : i = 24 <;> simp [h]
  · change _ = (v ||| 0x01000000).getLsbD i
    rw [BitVec.getLsbD_or, hset i hi]
    by_cases h : i = 24 <;> simp [h]

/-- Settles O56: the write stores the fields of the value, and the read puts them together again. -/
theorem controlWordReadsBack : Obligations.ControlWordReadsBack := by
  intro s t c v hc hv hex
  have hw : exec (.wrChCtrl c v) s = commit s (writeChCtrl c v s) := exec_writeInstr hc.halted_eq (.chCtrl c) v
  have ht : t = storeCtrl c v s := by
    simpa [writeChCtrl, checkReserved, show v &&& ctrlReserved = 0 from hv, hw, eq_comm] using hex
  have hct : Clean t := by rw [ht]; cases c <;> exact hc
  have hread : readReg t (.chCtrl c) = .ok (ctrlWord (ctrlOfWord v) (chan s c).busy) := by
    simp [readReg, readChCtrl, ht, storeCtrl]
  rw [ctrlWord_ctrlOfWord hv] at hread
  exact (returns_readInstr hct).2 hread

/-! ### HIGH_PRIORITY (R52) -/

/-- The state with the HIGH_PRIORITY bits of the two channels replaced. -/
def withPriorities (b0 b1 : Bool) (s : State) : State :=
  { s with ch0 := { s.ch0 with ctrl := { s.ch0.ctrl with highPriority := b0 } }
           ch1 := { s.ch1 with ctrl := { s.ch1.ctrl with highPriority := b1 } } }

/-- The transfer condition does not read HIGH_PRIORITY (R118). -/
theorem xferReady_withPriorities (c : Chan) (b0 b1 : Bool) (s : State) : xferReady c (withPriorities b0 b1 s) = xferReady c s := by
  cases c <;> rfl

/-- Settles O41: what an agent issues is there or not whatever the two bits are. -/
theorem highPriorityRestrictsNothing : Obligations.HighPriorityRestrictsNothing := by
  intro s b0 b1 a
  change agentEnabled a (withPriorities b0 b1 s) = agentEnabled a s
  cases a with
  | hgen | vgen | cgen => exact congrArg (fun b => !halted s && b) (isSome_guard _ _ _)
  | dma c =>
    simp only [agentEnabled, agentIssue, xferReady_withPriorities]
    exact congrArg (fun b => !halted s && b) (isSome_guard _ _ _)
  | host =>
    refine congrArg (fun b => !halted s && b) ?_
    simp only [agentIssue, hostIssue, withPriorities]
    cases s.host.pending with
    | cons => rfl
    | nil => cases s.host.prog <;> rfl

end Sys2Proof.Machine
end

section
/-! The memory an operation leaves (R60, R65, R70), and the faults of a host access in the order of the bus's tests (R59, R62, R190). -/

namespace Sys2Proof.Machine

/-! ### The memory an operation leaves (R60, R65, R70) -/

@[simp] theorem hgenCycle_mem (b : Bool) (ph : HPhase) (n : Nat) (s : State) : (hgenCycle b ph n s).mem = s.mem := by
  unfold hgenCycle; split <;> rfl

@[simp] theorem vgenEvent_mem (b : Bool) (ph : VPhase) (n : Nat) (s : State) : (vgenEvent b ph n s).mem = s.mem := by
  unfold vgenEvent; split <;> rfl

/-- The memory after is the memory before, or differs from it by one word written at the address. -/
def MemAfter (a : Option Nat) (s t : State) : Prop :=
  t.mem = s.mem ∨ ∃ b v, a = some b ∧ t.mem = memWrite s.mem b v

/-- Every byte outside the word at the address reads as before. -/
theorem MemAfter.readByte_eq {a : Option Nat} {s t : State} (h : MemAfter a s t) {b : Nat}
    (hb : ∀ x, a = some x → b < x ∨ x + 4 ≤ b) : readByte t.mem b = readByte s.mem b := by
  obtain h | ⟨x, v, rfl, h⟩ := h
  · rw [h]
  · rw [h, readByte_memWrite_other _ _ _ _ (hb x rfl)]

/-- A bus write that does not fault writes the word at its address, or a register and no memory (R58, R59). -/
theorem busWrite_memAfter {s t : State} {a v : Word} (h : busWrite s a v = .ok t) : MemAfter (some a.toNat) s t := by
  obtain ⟨-, ⟨r, -, -, hw⟩ | ⟨-, -, rfl⟩⟩ := busWrite_ok h
  · exact Or.inl (sameFrame_writeReg hw).mem
  · exact Or.inr ⟨a.toNat, v, rfl, rfl⟩

/-- A transfer that does not fault writes memory at its write address only, whatever channel it completes or triggers (R119). -/
theorem xfer_memAfter {c : Chan} {s t : State} (h : xfer c s = .ok t) : MemAfter (some (chan s c).writeAddr.toNat) s t := by
  obtain ⟨v, u, -, hw, hf⟩ := xfer_ok h
  simpa only [MemAfter, (sameFrame_finishXfer hf).mem] using busWrite_memAfter hw

/-- Under CFG, an operation changes memory only by the word it stores. -/
theorem Effect.memAfter {i : Instr} {s t : State} (hcfg : s.cfg.cfgOk = true) (e : Effect i s t) : MemAfter (storesTo i s) s t := by
  have c := cfgFacts hcfg
  cases e with
  | hAp | hSp | vVis | vFp | vSplHigh | vSplBack | vSph | vBp => exact Or.inl (by simp)
  | hBp => exact Or.inl (by split <;> simp)
  | dmaXfer _ _ _ _ hx => exact xfer_memAfter hx
  | dmaTrigger _ _ _ hx => exact Or.inl (sameFrame_trigger hx).mem
  | dmaAbort ch => exact Or.inl (sameFrame_abort ch s).mem
  | hostStw _ _ _ _ hb => exact busWrite_memAfter hb
  | pxFill _ _ _ _ _ hf hb =>
    obtain ⟨hN, ha⟩ := addr_of_fillStores hf
    rw [ha, busWrite_fbAddr (withPending_cfg _ _) c hN] at hb
    cases hb
    exact Or.inr ⟨_, _, rfl, rfl⟩
  | sysStart _ _ _ hb =>
    rw [busWrite_basePtr (withPending_cfg _ _) c] at hb
    cases hb
    exact Or.inr ⟨_, _, rfl, rfl⟩
  | sysStop _ _ hb =>
    rw [busWrite_regAddr c (withPending_cfg _ _)] at hb
    exact Or.inl (sameFrame_writeReg hb).mem
  | writeReg _ _ _ _ hw => exact Or.inl (sameFrame_writeReg hw).mem
  | _ => exact Or.inl rfl

/-- Settles O31: each way an operation ends leaves memory but for the word at the operation's own store address. -/
theorem memoryFrame : Obligations.MemoryFrame := by
  intro i s t hcfg h b hb
  refine ((exec_effect h).2.memAfter hcfg).readByte_eq fun x hx => ?_
  simpa only [hx] using hb

/-! ### The faults of a bus access, in the order of the bus's tests (R59, R62, R190) -/

/-- An aligned address at which neither a register nor a memory word lies (R59). -/
def IsUnmappedAddr (p : Params) (a : Word) : Prop :=
  a.toNat % 4 = 0 ∧
  ((InWindow p a ∧ ∀ r, a.toNat ≠ p.BLK_BASE + (regOffset r).toNat) ∨
   (¬ InWindow p a ∧ ¬ (p.MEM_BASE ≤ a.toNat ∧ a.toNat + 4 ≤ p.MEM_BASE + p.MEM_SIZE)))

/-- An offset of the window at which no register lies decodes to none (R84). -/
theorem regAt_windowOffset_eq_none {p : Params} {a : Word} (hw : InWindow p a)
    (h : ∀ r, a.toNat ≠ p.BLK_BASE + (regOffset r).toNat) : regAt (windowOffset p a) = none := by
  refine regAt_eq_none fun r hr => h r ?_
  rw [hr, windowOffset, BitVec.toNat_ofNat]
  unfold InWindow at hw
  omega

/-- An unmapped address as the bus's tests see it (R59). -/
theorem IsUnmappedAddr.tests {p : Params} {a : Word} (h : IsUnmappedAddr p a) :
    aligned a = true ∧
    ((inWindow p a = true ∧ regAt (windowOffset p a) = none) ∨ (inWindow p a = false ∧ inMemory p a = false)) := by
  obtain ⟨h4, ⟨hw, hr⟩ | ⟨hw, hm⟩⟩ := h
  · exact ⟨by simp [aligned, h4], Or.inl ⟨inWindow_iff.2 hw, regAt_windowOffset_eq_none hw hr⟩⟩
  · refine ⟨by simp [aligned, h4], Or.inr ⟨?_, ?_⟩⟩
    · simpa only [← inWindow_iff, Bool.not_eq_true] using hw
    · simpa only [inMemory, ← Bool.decide_and, decide_eq_false_iff_not] using hm

theorem aligned_eq_false {a : Word} (h : a.toNat % 4 ≠ 0) : aligned a = false := by simp [aligned, h]

theorem busRead_misaligned {s : State} {a : Word} (h : a.toNat % 4 ≠ 0) : busRead s a = .error (.misaligned a) := by
  simp [busRead, aligned_eq_false h]

theorem busWrite_misaligned {s : State} {a v : Word} (h : a.toNat % 4 ≠ 0) : busWrite s a v = .error (.misaligned a) := by
  simp [busWrite, aligned_eq_false h]

theorem busRead_unmapped {s : State} {a : Word} (h : IsUnmappedAddr s.cfg a) : busRead s a = .error (.unmapped a) := by
  obtain ⟨h1, ⟨h2, h3⟩ | ⟨h2, h3⟩⟩ := h.tests <;> simp [busRead, h1, h2, h3]

theorem busWrite_unmapped {s : State} {a v : Word} (h : IsUnmappedAddr s.cfg a) : busWrite s a v = .error (.unmapped a) := by
  obtain ⟨h1, ⟨h2, h3⟩ | ⟨h2, h3⟩⟩ := h.tests <;> simp [busWrite, h1, h2, h3]

/-- A read at a register's address is the register's read (R58). -/
theorem busRead_of_isRegAddr {s : State} {a : Word} {r : Reg} (h : IsRegAddr s.cfg a r) : busRead s a = readReg s r := by
  obtain ⟨h1, h2, h3⟩ := window_address h.1 h.2
  exact busRead_register h1 h2 h3

/-- The write-only registers fault a read with their own offset (R157, R164). -/
theorem readReg_writeOnly (s : State) {r : Reg} (h : r = .cgenTxf ∨ r = .chanAbort) :
    readReg s r = .error (.access (regOffset r)) := by
  obtain rfl | rfl := h <;> rfl

/-! ### The faults of a host access (R150, R151, R184) -/

/-- A word load records the fault of its bus read (R150). -/
theorem faults_hostLdw {s : State} (hc : Clean s) {a : Word} {f : FaultRec} (h : busRead s a = .error f) (n : Name) :
    Faults (.hostLdw a 4 n) s f := by
  simp [Faults, exec, execHostLdw, hc.halted_eq, h, recordFault]

/-- A word store records the fault of its bus write (R151). -/
theorem faults_hostStw {s : State} (hc : Clean s) {a v : Word} {f : FaultRec} (h : busWrite s a v = .error f) :
    Faults (.hostStw a v 4) s f := by
  simp [Faults, exec, execHostStw, hc.halted_eq, h, recordFault]

/-- An access to an unmapped address faults FLT_UNMAPPED, load and store alike. -/
theorem faults_host_unmapped {s : State} (hc : Clean s) {a : Word} (h : IsUnmappedAddr s.cfg a) (v : Word) (n : Name) :
    Faults (.hostLdw a 4 n) s (.unmapped a) ∧ Faults (.hostStw a v 4) s (.unmapped a) :=
  ⟨faults_hostLdw hc (busRead_unmapped h) n, faults_hostStw hc (busWrite_unmapped h)⟩

/-- Settles O29: the bus's tests in their order, each with the fault it gives, recorded by the load and the store alike. -/
theorem hostAccessFaults : Obligations.HostAccessFaults := by
  intro s a v n hc
  refine ⟨fun h4 => ⟨faults_hostLdw hc (busRead_misaligned h4) n, faults_hostStw hc (busWrite_misaligned h4)⟩,
    fun h4 hw hr => faults_host_unmapped hc ⟨h4, Or.inl ⟨hw, hr⟩⟩ v n,
    fun h4 hw hm => faults_host_unmapped hc ⟨h4, Or.inr ⟨hw, hm⟩⟩ v n, fun r ha hr => ?_⟩
  exact faults_hostLdw hc ((busRead_of_isRegAddr ha).trans (readReg_writeOnly s hr)) n

end Sys2Proof.Machine
end

section
/-! The proofs of the statements on encoding: an operation term against the OP8 table (R85, R87), a bus access against the register
offsets (R37, R84), and the two directions of decode and encode. -/

namespace Sys2Proof

open Laws.RoundTrip

/-! ### The encoder's code decodes to the operation (R84, R85) -/

theorem decode_encode : ∀ i : Instr, decode (encode i) = .ok i
  | .hostLdw a w n => hostLdw a w n | .hostStw a v w => hostStw a v w
  | .hAp => hAp | .hSp => hSp | .hBp => hBp
  | .vHold => vHold | .vVis => vVis | .vFp => vFp | .vSpl => vSpl | .vSph => vSph | .vBp => vBp
  | .cWait => cWait | .cTake => cTake | .cOut => cOut | .cStall => cStall | .cDwell => cDwell | .cBlank => cBlank
  | .dmaXfer c => dmaXfer c | .dmaTrigger c => dmaTrigger c | .dmaAbort c => dmaAbort c
  | .pxXlate x y => pxXlate x y | .pxMask c => pxMask c | .pxSet x y c => pxSet x y c
  | .pxGet x y n => pxGet x y n | .pxFill c => pxFill c
  | .sysStart => sysStart | .sysStop => sysStop
  | .rdSeqCtrl => rdSeqCtrl | .rdSeqFlags => rdSeqFlags | .rdSeqFstat => rdSeqFstat | .rdCgenTxf => rdCgenTxf
  | .rdChReadAddr c => rdChReadAddr c | .rdChWriteAddr c => rdChWriteAddr c | .rdChTransCount c => rdChTransCount c
  | .rdChCtrlTrig c => rdChCtrlTrig c | .rdChCtrl c => rdChCtrl c | .rdChReadAddrTrig c => rdChReadAddrTrig c
  | .rdChTransRemain c => rdChTransRemain c | .rdChanAbort => rdChanAbort
  | .wrSeqCtrl v => wrSeqCtrl v | .wrSeqFlags v => wrSeqFlags v | .wrSeqFstat v => wrSeqFstat v | .wrCgenTxf v => wrCgenTxf v
  | .wrChReadAddr c v => wrChReadAddr c v | .wrChWriteAddr c v => wrChWriteAddr c v
  | .wrChTransCount c v => wrChTransCount c v | .wrChCtrlTrig c v => wrChCtrlTrig c v | .wrChCtrl c v => wrChCtrl c v
  | .wrChReadAddrTrig c v => wrChReadAddrTrig c v | .wrChTransRemain c v => wrChTransRemain c v
  | .wrChanAbort v => wrChanAbort v

/-! ### An operation term and the row of the OP8 table it matches (R85) -/

/-- The row found for a code decides what a term with that code decodes to. -/
theorem decode_term_of_find {t : Term} {op : BitVec 8} {r : Op8Row} {i : Instr} (hop : t.op = op)
    (hf : op8Table.find? (fun r => op &&& r.mask == r.pattern) = some r) (hb : r.build { t with op := op } = i) :
    decode (.term t) = .ok i := by
  subst hop hb
  simp only [decode, decodeTerm, hf]

/-- A term is what a row that matches its code builds of it, or its code is reserved. -/
theorem decode_term_cases (t : Term) :
    (∃ r ∈ op8Table, t.op &&& r.mask = r.pattern ∧ decode (.term t) = .ok (r.build t)) ∨
    ((∀ r ∈ op8Table, t.op &&& r.mask ≠ r.pattern) ∧ decode (.term t) = .error (.reservedOpcode t.op)) := by
  cases hf : op8Table.find? (fun r => t.op &&& r.mask == r.pattern) with
  | some r =>
    exact .inl ⟨r, List.mem_of_find?_eq_some hf, by simpa using List.find?_some hf, decode_term_of_find rfl hf rfl⟩
  | none => exact .inr ⟨by simpa using hf, by simp only [decode, decodeTerm, hf]⟩

/-- A code that matches a row is the row's pattern, and the code's own bits where the mask is 0. -/
theorem eq_pattern_or_of_and_mask {w : Nat} {o m p : BitVec w} (h : o &&& m = p) : p ||| (o &&& ~~~m) = o := by
  subst h
  ext j hj
  cases hm : m[j] <;> simp [hm]

/-- No row of the OP8 table leaves a bit open but bit 3, the channel. -/
theorem op8Table_open_bit : ∀ r ∈ op8Table, ~~~r.mask = 0 ∨ ~~~r.mask = BitVec.twoPow 8 3 := by decide

/-- A code that matches a row is the row's pattern, or the pattern with the open bit set. -/
theorem op8_code_cases {r : Op8Row} (hr : r ∈ op8Table) {o : BitVec 8} (h : o &&& r.mask = r.pattern) :
    o = r.pattern ∨ o = r.pattern ||| ~~~r.mask := by
  have ho := eq_pattern_or_of_and_mask h
  rcases op8Table_open_bit r hr with hm | hm <;> rw [hm] at ho ⊢
  · exact .inl (by simpa using ho.symm)
  · rw [BitVec.and_twoPow] at ho
    split at ho
    · exact .inr ho.symm
    · exact .inl (by simpa using ho.symm)

/-- The code of a channel's operation carries the channel in bit 3. -/
theorem dmaCode_ofBit (p o : BitVec 8) : dmaCode p (.ofBit (o.getLsbD 3)) = p ||| (o &&& BitVec.twoPow 8 3) := by
  rw [BitVec.and_twoPow]
  cases o.getLsbD 3
  · simp [Chan.ofBit, dmaCode]
  · rfl

/-- What a row builds is encoded with the row's pattern, and the term's own bits where the mask is 0. -/
theorem encode_build {r : Op8Row} (hr : r ∈ op8Table) (t : Term) :
    ∃ u, encode (r.build t) = .term u ∧ u.op = r.pattern ||| (t.op &&& ~~~r.mask) := by
  have noOpenBit (p : BitVec 8) : p = p ||| (t.op &&& ~~~0xFF) := by simp
  rcases List.mem_append.1 hr with hr | hr
  · fin_cases hr <;> exact ⟨_, rfl, noOpenBit _⟩
  · fin_cases hr
    -- The three rows of unit 4 stand first: their open bit is the channel. Every later row fixes all eight bits.
    iterate 3 exact ⟨_, rfl, dmaCode_ofBit _ _⟩
    all_goals exact ⟨_, rfl, noOpenBit _⟩

/-- A term that decodes to an operation has the operation's own code. -/
theorem encode_of_decode_term {t : Term} {i : Instr} (h : decode (.term t) = .ok i) :
    ∃ u, encode i = .term u ∧ u.op = t.op := by
  rcases decode_term_cases t with ⟨r, hr, hm, hd⟩ | ⟨-, hd⟩
  · obtain rfl : r.build t = i := Except.ok.inj (hd.symm.trans h)
    obtain ⟨u, hu, hop⟩ := encode_build hr t
    exact ⟨u, hu, hop.trans (eq_pattern_or_of_and_mask hm)⟩
  · exact absurd (hd.symm.trans h) (by simp)

/-! ### A bus access and the register at its offset (R37, R84) -/

theorem decode_access_read {b : BusAccess} {r : Reg} (h : regAt b.offset = some r) (hd : b.dir = .read) :
    decode (.access b) = .ok (readInstr r) := by
  simp only [decode, decodeAccess, h, hd]

theorem decode_access_write {b : BusAccess} {r : Reg} (h : regAt b.offset = some r) (hd : b.dir = .write) :
    decode (.access b) = .ok (writeInstr b.data r) := by
  simp only [decode, decodeAccess, h, hd]

theorem decode_access_unmapped {b : BusAccess} (h : regAt b.offset = none) :
    decode (.access b) = .error (.unmappedOffset b.offset) := by
  simp only [decode, decodeAccess, h]

theorem encode_readInstr (r : Reg) : encode (readInstr r) = readCode r := by cases r <;> rfl

theorem encode_writeInstr (v : Word) (r : Reg) : encode (writeInstr v r) = writeCode r v := by cases r <;> rfl

/-- An access that decodes to an operation has the offset, the direction and, for a write, the value of the operation's own. -/
theorem encode_of_decode_access {b : BusAccess} {i : Instr} (h : decode (.access b) = .ok i) :
    ∃ d, encode i = .access d ∧ d.offset = b.offset ∧ d.dir = b.dir ∧ (b.dir = .write → d.data = b.data) := by
  cases hr : regAt b.offset with
  | none => exact absurd ((decode_access_unmapped hr).symm.trans h) (by simp)
  | some r =>
    have ho : regOffset r = b.offset := regOffset_of_regAt _ _ hr
    cases hb : b.dir with
    | read =>
      obtain rfl : readInstr r = i := Except.ok.inj ((decode_access_read hr hb).symm.trans h)
      exact ⟨_, encode_readInstr r, ho, rfl, by simp⟩
    | write =>
      obtain rfl : writeInstr b.data r = i := Except.ok.inj ((decode_access_write hr hb).symm.trans h)
      exact ⟨_, encode_writeInstr b.data r, ho, rfl, fun _ => rfl⟩

/-- Settles O2: the round trip of each operation, and what a code that decodes matches: the open bits of an OP8 row are what the
operation's own code has there, and an offset belongs to one register. -/
theorem decodeEncodeAgree : Obligations.DecodeEncodeAgree :=
  ⟨decode_encode, fun _ _ => encode_of_decode_term, fun _ _ => encode_of_decode_access⟩

/-! ### The codes and the offsets, written out (R37, R84, R85, R87) -/

/-- Settles O1: each of the words is the encoder's own code of its operation. -/
theorem decodeWords : Obligations.DecodeWords :=
  ⟨decode_encode (.hostStw 0x20000100 0x3FFFFFFF 4), decode_encode .hBp, decode_encode .vSph, decode_encode .cOut,
    decode_encode (.dmaXfer .ch0), decode_encode (.dmaAbort .ch1), decode_encode (.pxSet 9 0 7), decode_encode .sysStop,
    decode_encode (.rdChReadAddrTrig .ch1), decode_encode (.wrChCtrl .ch0 0x0001081B)⟩

/-- The thirty operation codes of R85. -/
def op8Codes : List (BitVec 8) :=
  [0x00, 0x01, 0x20, 0x21, 0x22, 0x40, 0x41, 0x42, 0x43, 0x44, 0x45, 0x60, 0x61, 0x62, 0x63, 0x64, 0x65,
    0x80, 0x88, 0x81, 0x89, 0x82, 0x8A, 0xA0, 0xA1, 0xA2, 0xA3, 0xA4, 0xC0, 0xC1]

/-- A row's pattern, with and without its open bit, is a code of R85. -/
theorem op8Table_codes : ∀ r ∈ op8Table, r.pattern ∈ op8Codes ∧ r.pattern ||| ~~~r.mask ∈ op8Codes := by decide

/-- A code that is none of R85's is rejected by name (R87). -/
theorem decode_term_reserved {t : Term} (h : t.op ∉ op8Codes) : decode (.term t) = .error (.reservedOpcode t.op) := by
  rcases decode_term_cases t with ⟨r, hr, hm, -⟩ | ⟨-, hd⟩
  · obtain ⟨hp, hp'⟩ := op8Table_codes r hr
    rcases op8_code_cases hr hm with ho | ho
    · exact absurd (ho ▸ hp) h
    · exact absurd (ho ▸ hp') h
  · exact hd

/-- Settles O3: each code by the row found for it; a code that matches a row is one of the thirty. -/
theorem termCodes : Obligations.TermCodes := by
  refine ⟨fun op i h t hop => ?_, fun t => ⟨?_, ?_, ?_, ?_, ?_, ?_, ?_, decode_term_reserved⟩⟩
  · fin_cases h <;> exact decode_term_of_find hop rfl (by simp [Chan.ofBit])
  all_goals exact fun hop => decode_term_of_find hop rfl rfl

/-- The registers at the nineteen offsets of R37, the block's first and then each channel's. -/
def mappedRegs : List Reg :=
  let chanRegs (c : Chan) : List Reg :=
    [.chReadAddr c, .chWriteAddr c, .chTransCount c, .chCtrlTrig c, .chCtrl c, .chReadAddrTrig c, .chTransRemain c]
  [.seqCtrl, .seqFlags, .seqFstat, .cgenTxf, .chanAbort] ++ chanRegs .ch0 ++ chanRegs .ch1

theorem mem_mappedRegs (r : Reg) : r ∈ mappedRegs := by
  cases r with
  | seqCtrl | seqFlags | seqFstat | cgenTxf | chanAbort => decide
  | chReadAddr c | chWriteAddr c | chTransCount c | chCtrlTrig c | chCtrl c | chReadAddrTrig c | chTransRemain c =>
    cases c <;> decide

/-- Settles O4: the nineteen rows are the registers' own offsets and operations, and every register is among them. -/
theorem registerOffsets : Obligations.RegisterOffsets := by
  refine ⟨fun v o rd wr h => ?_, fun d v o h => decode_access_unmapped (Machine.regAt_eq_none fun r hr => h ?_)⟩
  · obtain ⟨r, -, hrow⟩ := List.mem_map (f := fun r => (regOffset r, readInstr r, writeInstr v r)) (l := mappedRegs).1 h
    obtain ⟨rfl, rfl, rfl⟩ : regOffset r = o ∧ readInstr r = rd ∧ writeInstr v r = wr := by simpa using hrow
    exact ⟨fun _ => decode_access_read (regAt_regOffset r) rfl, decode_access_write (regAt_regOffset r) rfl⟩
  · exact (congrArg (· ∈ mappedRegs.map regOffset) hr).mp (List.mem_map_of_mem (mem_mappedRegs r))

end Sys2Proof
end

section
/-! The operations of the timing generators (R93 to R109): the code, the states each runs in, and the whole next state it answers
there. -/

namespace Sys2Proof.Machine

/-! ### Where a generator's operation runs (R14, R91) -/

theorem hgenIn_iff {ph : HPhase} {s : State} :
    hgenIn ph s = true ↔ Clean s ∧ s.smEn.getLsbD 0 = true ∧ s.hgen.phase = ph := by
  simp [hgenIn, unitEnabled, halted_eq_false, Clean, and_assoc]

theorem vgenIn_iff {ph : VPhase} {s : State} :
    vgenIn ph s = true ↔ Clean s ∧ s.smEn.getLsbD 1 = true ∧ s.flagA = true ∧ s.vgen.phase = ph := by
  simp [vgenIn, unitEnabled, halted_eq_false, Clean, and_assoc]

theorem cgenIn_iff {ph : CPhase} {s : State} :
    cgenIn ph s = true ↔ Clean s ∧ s.smEn.getLsbD 2 = true ∧ s.cgen.phase = ph := by
  simp [cgenIn, unitEnabled, halted_eq_false, Clean, and_assoc]

/-- An operation that is a guarded next state runs exactly where its guard holds. -/
theorem runsExactlyWhen_of_guard {i : Instr} {s t : State} {b : Bool} {p : Prop} (h : exec i s = guardOp b (.next t))
    (hb : b = true ↔ p) : RunsExactlyWhen i s p := by
  simp [RunsExactlyWhen, h, guardOp_next, hb]

/-- An operation that is a guarded next state answers it where its guard holds. -/
theorem exec_of_guard {i : Instr} {s t : State} {b : Bool} (h : exec i s = guardOp b (.next t)) (hb : b = true) :
    exec i s = .next t := by
  rw [h, hb, guardOp_true]

/-! ### HGEN (R93, R94, R95) -/

/-- A cycle of HGEN, with the phase it is performed in written out. -/
theorem hgenCycle_of_phase {s : State} {ph : HPhase} (hp : s.hgen.phase = ph) (level : Bool) (nxt : HPhase) (n : Nat) :
    hgenCycle level nxt n s = if s.hgen.cnt = 1 then { s with hgen := { phase := nxt, cnt := BitVec.ofNat 32 n, hsync := level } }
      else { s with hgen := { phase := ph, cnt := s.hgen.cnt - 1, hsync := level } } := by
  subst hp
  rfl

/-- The last back-porch cycle raises FLAG_A, and no earlier one does (R95). -/
theorem hgenCycle_raiseA {s : State} {ph : HPhase} (hp : s.hgen.phase = ph) (level : Bool) (nxt : HPhase) (n : Nat) :
    hgenCycle level nxt n (if s.hgen.cnt = 1 then raiseA s else s) = if s.hgen.cnt = 1
      then { s with flagA := true, hgen := { phase := nxt, cnt := BitVec.ofNat 32 n, hsync := level } }
      else { s with hgen := { phase := ph, cnt := s.hgen.cnt - 1, hsync := level } } := by
  by_cases h1 : s.hgen.cnt = 1
  · simp only [h1, if_true, hgenCycle, raiseA_hgen]
    rfl
  · simp only [h1, if_false, hgenCycle_of_phase hp]

/-- Settles O15: each operation is a cycle of HGEN, guarded by its phase. (`hgenCycle` is the model's name for such a cycle.) -/
theorem hgenCycle_operations : Obligations.HgenCycle := by
  refine ⟨termCodes.1 _ _ (by simp), termCodes.1 _ _ (by simp), termCodes.1 _ _ (by simp), fun s =>
    ⟨runsExactlyWhen_of_guard (exec_hAp s) hgenIn_iff, runsExactlyWhen_of_guard (exec_hSp s) hgenIn_iff,
      runsExactlyWhen_of_guard (exec_hBp s) hgenIn_iff, fun hc he => ⟨fun hp => ?_, fun hp => ?_, fun hp => ?_⟩⟩⟩
  · rw [exec_of_guard (exec_hAp s) (hgenIn_iff.2 ⟨hc, he, hp⟩), hgenCycle_of_phase hp]
  · rw [exec_of_guard (exec_hSp s) (hgenIn_iff.2 ⟨hc, he, hp⟩), hgenCycle_of_phase hp]
  · rw [exec_of_guard (exec_hBp s) (hgenIn_iff.2 ⟨hc, he, hp⟩), hgenCycle_raiseA hp]

/-! ### VGEN (R97 to R102) -/

/-- A line event, with the phase it is consumed in written out. -/
theorem vgenEvent_of_phase {s : State} {ph : VPhase} (hp : s.vgen.phase = ph) (level : Bool) (nxt : VPhase) (n : Nat) :
    vgenEvent level nxt n s = { s with
      flagA := false
      vgen := if s.vgen.cnt = 1 then { phase := nxt, cnt := BitVec.ofNat 32 n, vsync := level }
        else { phase := ph, cnt := s.vgen.cnt - 1, vsync := level } } := by
  rw [vgenEvent, ← hp]
  split <;> rfl

/-- The last low sync line goes on to the high sub-span where there is one, and to the back porch otherwise (R100). -/
theorem vgenEvent_spl {s : State} (hp : s.vgen.phase = .spl) :
    (if s.cfg.V_SPH > 0 then vgenEvent false .sph s.cfg.V_SPH s else vgenEvent false .bp s.cfg.V_BP s) = { s with
      flagA := false
      vgen := if s.vgen.cnt = 1
        then (if 0 < s.cfg.V_SPH then { phase := .sph, cnt := BitVec.ofNat 32 s.cfg.V_SPH, vsync := false }
          else { phase := .bp, cnt := BitVec.ofNat 32 s.cfg.V_BP, vsync := false })
        else { phase := .spl, cnt := s.vgen.cnt - 1, vsync := false } } := by
  by_cases hv : 0 < s.cfg.V_SPH <;> simp only [gt_iff_lt, hv, if_true, if_false, vgenEvent_of_phase hp]

/-- Settles O16: each operation but V.HOLD is a line event, guarded by FLAG_A and its phase. (`vgenEvent` is the model's name for such
an event.) -/
theorem vgenEvent_operations : Obligations.VgenEvent := by
  refine ⟨termCodes.1 _ _ (by simp), termCodes.1 _ _ (by simp), termCodes.1 _ _ (by simp), termCodes.1 _ _ (by simp),
    termCodes.1 _ _ (by simp), termCodes.1 _ _ (by simp), fun s => ?_⟩
  have hold : (!halted s && unitEnabled s 1 && !s.flagA) = true ↔ Clean s ∧ s.smEn.getLsbD 1 = true ∧ s.flagA = false := by
    simp [unitEnabled, halted_eq_false, Clean, and_assoc]
  refine ⟨runsExactlyWhen_of_guard (exec_vHold s) hold, runsExactlyWhen_of_guard (exec_vVis s) vgenIn_iff,
    runsExactlyWhen_of_guard (exec_vFp s) vgenIn_iff, runsExactlyWhen_of_guard (exec_vSpl s) vgenIn_iff,
    runsExactlyWhen_of_guard (exec_vSph s) vgenIn_iff, runsExactlyWhen_of_guard (exec_vBp s) vgenIn_iff, fun hc he =>
    ⟨fun ha => exec_of_guard (exec_vHold s) (hold.2 ⟨hc, he, ha⟩), fun ha =>
      ⟨fun hp => ?_, fun hp => ?_, fun hp => ?_, fun hp => ?_, fun hp => ?_⟩⟩⟩
  · rw [exec_of_guard (exec_vVis s) (vgenIn_iff.2 ⟨hc, he, ha, hp⟩), vgenEvent_of_phase hp]
    rfl
  · rw [exec_of_guard (exec_vFp s) (vgenIn_iff.2 ⟨hc, he, ha, hp⟩), vgenEvent_of_phase hp]
  · rw [exec_of_guard (exec_vSpl s) (vgenIn_iff.2 ⟨hc, he, ha, hp⟩), vgenEvent_spl hp]
  · rw [exec_of_guard (exec_vSph s) (vgenIn_iff.2 ⟨hc, he, ha, hp⟩), vgenEvent_of_phase hp]
  · rw [exec_of_guard (exec_vBp s) (vgenIn_iff.2 ⟨hc, he, ha, hp⟩), vgenEvent_of_phase hp]

/-! ### CGEN (R104 to R109) -/

/-- Settles O17: C.WAIT and C.STALL hold, C.TAKE, C.DWELL and C.BLANK write the fields of their rule, each guarded by its phase. -/
theorem cgenHoldTakeDwellBlank : Obligations.CgenHoldTakeDwellBlank := by
  refine ⟨termCodes.1 _ _ (by simp), termCodes.1 _ _ (by simp), termCodes.1 _ _ (by simp), termCodes.1 _ _ (by simp),
    termCodes.1 _ _ (by simp), fun s => ?_⟩
  have wait : (cgenIn .waitb s && !s.flagB) = true ↔
      Clean s ∧ s.smEn.getLsbD 2 = true ∧ s.cgen.phase = .waitb ∧ s.flagB = false := by
    simp [cgenIn_iff, and_assoc]
  have take : (cgenIn .waitb s && s.flagB) = true ↔
      Clean s ∧ s.smEn.getLsbD 2 = true ∧ s.cgen.phase = .waitb ∧ s.flagB = true := by
    simp [cgenIn_iff, and_assoc]
  have stall : (cgenIn .pixel s && !canDrive s) = true ↔
      Clean s ∧ s.smEn.getLsbD 2 = true ∧ s.cgen.phase = .pixel ∧ s.cgen.osrn = 0 ∧ s.cgen.fifo.length = 0 := by
    simp [cgenIn_iff, Bool.eq_false_iff, canDrive_iff, and_assoc]
  refine ⟨runsExactlyWhen_of_guard (exec_cWait s) wait, runsExactlyWhen_of_guard (exec_cTake s) take,
    runsExactlyWhen_of_guard (exec_cStall s) stall, runsExactlyWhen_of_guard (exec_cDwell s) cgenIn_iff,
    runsExactlyWhen_of_guard (exec_cBlank s) cgenIn_iff, fun hc he =>
    ⟨fun hp hb => exec_of_guard (exec_cWait s) (wait.2 ⟨hc, he, hp, hb⟩),
      fun hp hb => exec_of_guard (exec_cTake s) (take.2 ⟨hc, he, hp, hb⟩),
      fun hp ho hf => exec_of_guard (exec_cStall s) (stall.2 ⟨hc, he, hp, ho, List.length_eq_zero_iff.2 hf⟩),
      fun hp => ?_, fun hp => exec_of_guard (exec_cBlank s) (cgenIn_iff.2 ⟨hc, he, hp⟩)⟩⟩
  rw [exec_of_guard (exec_cDwell s) (cgenIn_iff.2 ⟨hc, he, hp⟩)]
  simp only [sub_eq_iff_eq_add, zero_add]

/-- C.OUT drives from CGEN with its shift register loaded (R106). -/
theorem exec_cOut_loaded (s : State) : exec .cOut s =
    guardOp (cgenIn .pixel s && canDrive s) (.next { s with cgen := drivePixel s.cfg.C_PIX (loaded s.cgen) }) := rfl

theorem loaded_of_osrn_ne {g : CGen} (h : g.osrn ≠ 0) : loaded g = g := if_neg h

theorem loaded_of_osrn_eq {g : CGen} {w : Word} {ws : List Word} (h : g.osrn = 0) (hf : g.fifo = w :: ws) :
    loaded g = { g with osr := g.next, next := w, fifo := ws, osrn := 10 } := by
  simp [loaded, h, loadWord, hf, pixelsPerWord]

/-- Driving a pixel in the middle of a line, with the tests on the counts before the drive. -/
theorem drivePixel_of_pixel {g : CGen} (hp : g.phase = .pixel) (n : Nat) : drivePixel n g = { g with
    color := g.osr.extractLsb' 0 3
    osr := g.osr >>> 3
    osrn := g.osrn - 1
    px := g.px - 1
    dw := if 1 < n then BitVec.ofNat 32 (n - 1) else g.dw
    phase := if 1 < n then .dwell else if g.px = 1 then .blank else .pixel } := by
  simp only [drivePixel, hp, sub_eq_iff_eq_add, zero_add, gt_iff_lt]

/-- C.OUT runs exactly in the middle of a line, with a pixel in the shift register or a word in the FIFO (R106). -/
theorem cOutGuard_iff {s : State} : (cgenIn .pixel s && canDrive s) = true ↔
    Clean s ∧ s.smEn.getLsbD 2 = true ∧ s.cgen.phase = .pixel ∧ (s.cgen.osrn ≠ 0 ∨ 0 < s.cgen.fifo.length) := by
  simp only [Bool.and_eq_true, cgenIn_iff, canDrive_iff, List.length_pos_iff, and_assoc]

/-- Settles O18: C.OUT drives a pixel from the loaded shift register. -/
theorem cgenOut : Obligations.CgenOut := by
  refine ⟨termCodes.1 _ _ (by simp), fun s => ⟨runsExactlyWhen_of_guard (exec_cOut s) cOutGuard_iff, fun hc he hp => ?_⟩⟩
  have drive := drivePixel_of_pixel ((loaded_phase s.cgen).trans hp) s.cfg.C_PIX
  refine ⟨fun ho => ?_, fun w ws ho hf => ?_⟩
  · rw [exec_of_guard (exec_cOut_loaded s) (cOutGuard_iff.2 ⟨hc, he, hp, .inl ho⟩), drive, loaded_of_osrn_ne ho]
  · rw [exec_of_guard (exec_cOut_loaded s) (cOutGuard_iff.2 ⟨hc, he, hp, .inr (by simp [hf])⟩), drive, loaded_of_osrn_eq ho hf]
    simp only [BitVec.ofNat_eq_ofNat, BitVec.reduceSub]

end Sys2Proof.Machine
end

section
/-! The runs of HGEN and VGEN (R96, R103). Each generator goes through its phases, and its counter says how many steps of the phase are
left; so its place in a line or a frame tells its phase, its count and what its next step does. -/

namespace Sys2Proof.Machine

/-! ### Counting down a phase (R22, R23) -/

/-- A count that fits a unit counter is 1 in it exactly where it is 1. -/
theorem ofNat_eq_one_iff {n : Nat} (h : n < 2 ^ 32) : BitVec.ofNat 32 n = 1 ↔ n = 1 := by
  rw [← BitVec.toNat_inj, BitVec.toNat_ofNat, Nat.mod_eq_of_lt h]
  rfl

/-- A count that fits a unit counter is 0 in it exactly where it is 0. -/
theorem ofNat_eq_zero_iff {n : Nat} (h : n < 2 ^ 32) : BitVec.ofNat 32 n = 0 ↔ n = 0 := by
  rw [← BitVec.toNat_inj, BitVec.toNat_ofNat, Nat.mod_eq_of_lt h]
  rfl

theorem ofNat_sub_one {n : Nat} (h : 1 ≤ n) : BitVec.ofNat 32 n - 1 = BitVec.ofNat 32 (n - 1) :=
  BitVec.ofNat_sub_ofNat_of_le n 1 (by decide) h

/-- Step k of a line or a frame is one of the n steps of a phase from step `first` on, and the counter holds how many of them are
left. -/
structure CountsDown (first n k : Nat) (cnt : Word) : Prop where
  first_le : first ≤ k
  lt_end : k < first + n
  cnt_eq : cnt = BitVec.ofNat 32 (first + n - k)

theorem CountsDown.start {first n : Nat} (hn : 1 ≤ n) : CountsDown first n first (BitVec.ofNat 32 n) :=
  ⟨Nat.le_refl _, by omega, by rw [Nat.add_sub_cancel_left]⟩

/-- The counter is 1 exactly in the last step of the phase. -/
theorem CountsDown.cnt_eq_one_iff {first n k : Nat} {cnt : Word} (h : CountsDown first n k cnt) (hn : n < 2 ^ 32) :
    cnt = 1 ↔ k + 1 = first + n := by
  obtain ⟨hf, hl, rfl⟩ := h
  rw [ofNat_eq_one_iff (by omega)]
  omega

/-- The last step of a phase leads to the first step of a phase that begins where it ends. -/
theorem CountsDown.move {first n k first' n' : Nat} {cnt : Word} (h : CountsDown first n k cnt) (hn : n < 2 ^ 32) (h1 : cnt = 1)
    (hfirst : first' = first + n) (hn' : 1 ≤ n') : CountsDown first' n' (k + 1) (BitVec.ofNat 32 n') := by
  obtain rfl : first' = k + 1 := hfirst.trans ((h.cnt_eq_one_iff hn).1 h1).symm
  exact .start hn'

/-- A step of a phase that is not its last leads to the phase's next step. -/
theorem CountsDown.stay {first n k : Nat} {cnt : Word} (h : CountsDown first n k cnt) (hn : n < 2 ^ 32) (h1 : cnt ≠ 1) :
    CountsDown first n (k + 1) (cnt - 1) := by
  have hne := mt (h.cnt_eq_one_iff hn).2 h1
  obtain ⟨hf, hl, rfl⟩ := h
  exact ⟨by omega, by omega, ofNat_sub_one (by omega)⟩

/-! ### Runs of one agent -/

/-- An enabled generator or channel performs the operation its state selects (R14). -/
theorem agentStep_unitOp {a : Agent} {s : State} {i : Instr} (he : agentEnabled a s = true) (hi : unitOp s a = some i) :
    agentStep a s = exec i s := agentStep_of_enabled he (agentIssue_unitOp he hi)

/-- One more step of an agent after k of its steps. -/
theorem runAgents_replicate_succ (a : Agent) (k : Nat) (s : State) :
    runAgents (List.replicate (k + 1) a) s = (runAgents (List.replicate k a) s).bind (runAgents [a]) := by
  rw [List.replicate_succ', runAgents_append]

/-- A run of one step. -/
theorem runAgents_singleton {a : Agent} {s t : State} (h : agentStep a s = .next t) : runAgents [a] s = some t :=
  runAgents_cons_of_next h

/-! ### One cycle of HGEN (R93, R94, R95) -/

/-- The phase after a phase of HGEN. -/
def hAfter : HPhase → HPhase
  | .ap => .sp
  | .sp => .bp
  | .bp => .ap

/-- The cycles of a phase of HGEN (R9). -/
def hLength (p : Params) : HPhase → Nat
  | .ap => p.H_AP
  | .sp => p.H_SP
  | .bp => p.H_BP

/-- HGEN's registers after a cycle: HSYNC is low in the sync pulse only, and the last cycle loads the next phase's count. -/
def hgenNext (p : Params) (g : HGen) : HGen :=
  let level := decide (g.phase ≠ .sp)
  if g.cnt = 1 then { phase := hAfter g.phase, cnt := BitVec.ofNat 32 (hLength p (hAfter g.phase)), hsync := level }
  else { phase := g.phase, cnt := g.cnt - 1, hsync := level }

theorem hgenNext_hsync (p : Params) (g : HGen) : (hgenNext p g).hsync = decide (g.phase ≠ .sp) := by
  unfold hgenNext
  split <;> rfl

/-- A cycle of an enabled HGEN writes its registers, and sets FLAG_A where it is the last of the back porch. -/
theorem agentStep_hgen {s : State} (hc : Clean s) (he : s.smEn.getLsbD 0 = true) : agentStep .hgen s = .next { s with
    hgen := hgenNext s.cfg s.hgen
    flagA := s.flagA || decide (s.hgen.phase = .bp ∧ s.hgen.cnt = 1) } := by
  have en : agentEnabled .hgen s = true := by simp [agentEnabled, agentIssue, unitEnabled, hc.halted_eq, he]
  rw [agentStep_unitOp en rfl]
  cases hp : s.hgen.phase with
  | ap =>
    simp only [hgenOp, hp, exec_of_guard (exec_hAp s) (hgenIn_iff.2 ⟨hc, he, hp⟩), hgenCycle_of_phase hp]
    by_cases h1 : s.hgen.cnt = 1#32 <;> simp [hgenNext, hAfter, hLength, hp, h1]
  | sp =>
    simp only [hgenOp, hp, exec_of_guard (exec_hSp s) (hgenIn_iff.2 ⟨hc, he, hp⟩), hgenCycle_of_phase hp]
    by_cases h1 : s.hgen.cnt = 1#32 <;> simp [hgenNext, hAfter, hLength, hp, h1]
  | bp =>
    simp only [hgenOp, hp, exec_of_guard (exec_hBp s) (hgenIn_iff.2 ⟨hc, he, hp⟩), hgenCycle_raiseA hp]
    by_cases h1 : s.hgen.cnt = 1#32 <;> simp [hgenNext, hAfter, hLength, hp, h1]

/-! ### HGEN's line (R96) -/

/-- The cycle of a line a phase of HGEN begins with. -/
def hFirst (p : Params) : HPhase → Nat
  | .ap => 0
  | .sp => p.H_AP
  | .bp => p.H_AP + p.H_SP

/-- HGEN before cycle k of a line. -/
def InLine (p : Params) (k : Nat) (g : HGen) : Prop := CountsDown (hFirst p g.phase) (hLength p g.phase) k g.cnt

theorem hLength_bounds {p : Params} (c : CfgFacts p) (ph : HPhase) : 1 ≤ hLength p ph ∧ hLength p ph < 2 ^ 32 := by
  cases ph with
  | ap => exact c.hap
  | sp => exact c.hsp
  | bp => exact c.hbp

/-- The phase after a phase of a line begins where that phase ends, unless the line ends there. -/
theorem hFirst_hAfter (p : Params) {ph : HPhase} (h : ph ≠ .bp) : hFirst p (hAfter ph) = hFirst p ph + hLength p ph := by
  cases ph with
  | ap => exact (Nat.zero_add _).symm
  | sp => rfl
  | bp => exact absurd rfl h

theorem inLine_initHGen {p : Params} (c : CfgFacts p) : InLine p 0 (initHGen p) := CountsDown.start c.hap.1

/-- The sync pulse is the H_SP cycles from cycle H_AP on. -/
theorem InLine.phase_eq_sp_iff {p : Params} {k : Nat} {g : HGen} (h : InLine p k g) :
    g.phase = .sp ↔ p.H_AP ≤ k ∧ k < p.H_AP + p.H_SP := by
  obtain ⟨hf, hl, -⟩ := h
  cases hp : g.phase <;> simp only [hp, hFirst, hLength, reduceCtorEq, true_iff, false_iff] at hf hl ⊢ <;> omega

/-- The last cycle of a line is the last of the back porch. -/
theorem InLine.last_iff {p : Params} (c : CfgFacts p) {k : Nat} {g : HGen} (h : InLine p k g) :
    (g.phase = .bp ∧ g.cnt = 1) ↔ k = p.T_H - 1 := by
  have hsp := c.hsp
  have hbp := c.hbp
  rw [h.cnt_eq_one_iff (hLength_bounds c _).2]
  obtain ⟨hf, hl, -⟩ := h
  simp only [Params.T_H]
  cases hp : g.phase <;> simp only [hp, hFirst, hLength, reduceCtorEq, true_and, false_and, false_iff] at hf hl ⊢ <;> omega

/-- A cycle that is not the last brings HGEN to the next cycle of the line. -/
theorem InLine.next {p : Params} (c : CfgFacts p) {k : Nat} {g : HGen} (h : InLine p k g) (hk : k ≠ p.T_H - 1) :
    InLine p (k + 1) (hgenNext p g) := by
  by_cases h1 : g.cnt = 1#32
  · have hnb : g.phase ≠ .bp := fun hp => hk ((h.last_iff c).1 ⟨hp, h1⟩)
    simpa [InLine, hgenNext, h1] using
      CountsDown.move h (hLength_bounds c _).2 h1 (hFirst_hAfter p hnb) (hLength_bounds c (hAfter g.phase)).1
  · simpa [InLine, hgenNext, h1] using CountsDown.stay h (hLength_bounds c _).2 h1

/-- The last cycle of a line brings HGEN back to its initial state. -/
theorem InLine.next_last {p : Params} (c : CfgFacts p) {k : Nat} {g : HGen} (h : InLine p k g) (hk : k = p.T_H - 1) :
    hgenNext p g = initHGen p := by
  obtain ⟨hp, h1⟩ := (h.last_iff c).2 hk
  simp [hgenNext, hp, h1, hAfter, hLength, initHGen]

/-- Cycle k of a line writes HGEN's registers, and FLAG_A where it is the line's last. -/
theorem runAgents_hgen_inLine {s : State} (hc : Clean s) (c : CfgFacts s.cfg) (he : s.smEn.getLsbD 0 = true) {k : Nat}
    (h : InLine s.cfg k s.hgen) : runAgents [.hgen] s = some { s with
      hgen := hgenNext s.cfg s.hgen, flagA := s.flagA || decide (k = s.cfg.T_H - 1) } := by
  rw [runAgents_singleton (agentStep_hgen hc he)]
  simp only [h.last_iff c]

/-- k + 1 cycles of a line leave the state as it was but for HGEN's registers, and FLAG_A where the line has ended. -/
theorem runAgents_hgen {s : State} (hc : Clean s) (c : CfgFacts s.cfg) (he : s.smEn.getLsbD 0 = true)
    (hi : s.hgen = initHGen s.cfg) {k : Nat} (hk : k < s.cfg.T_H) : ∃ g, InLine s.cfg k g ∧
      runAgents (List.replicate (k + 1) .hgen) s = some { s with
        hgen := hgenNext s.cfg g, flagA := s.flagA || decide (k = s.cfg.T_H - 1) } := by
  induction k with
  | zero =>
    have h0 : InLine s.cfg 0 s.hgen := hi ▸ inLine_initHGen c
    exact ⟨s.hgen, h0, runAgents_hgen_inLine hc c he h0⟩
  | succ k ih =>
    obtain ⟨g, hg, hrun⟩ := ih (by omega)
    have hlast : k ≠ s.cfg.T_H - 1 := by omega
    refine ⟨hgenNext s.cfg g, hg.next c hlast, ?_⟩
    simp only [hlast, decide_false, Bool.or_false] at hrun
    rw [runAgents_replicate_succ, hrun, Option.bind_some]
    exact runAgents_hgen_inLine (s := { s with hgen := hgenNext s.cfg g }) hc c he (hg.next c hlast)

/-- Settles O23: by the place in the line HGEN has reached; the last cycle is the last of the back porch. -/
theorem hgenLine : Obligations.HgenLine := by
  intro s hc hcfg he hi
  have c := cfgFacts hcfg
  refine ⟨fun k hk => ?_, ?_⟩
  · obtain ⟨g, hg, hrun⟩ := runAgents_hgen hc c he hi hk
    refine ⟨_, hrun, ?_, rfl⟩
    simp only [hgenNext_hsync, ne_eq, hg.phase_eq_sp_iff, decide_not, Bool.decide_and]
  · have hT : s.cfg.T_H - 1 + 1 = s.cfg.T_H := by
      have := c.hap
      simp only [Params.T_H]
      omega
    obtain ⟨g, hg, hrun⟩ := runAgents_hgen hc c he hi (k := s.cfg.T_H - 1) (by omega)
    rw [hT] at hrun
    rw [hrun, hg.next_last c rfl, ← hi]
    simp

/-! ### One line event of VGEN (R98 to R102) -/

/-- The phase after a phase of VGEN; the high sync sub-span is skipped where it has no lines. -/
def vAfter (p : Params) : VPhase → VPhase
  | .vis => .fp
  | .fp => .spl
  | .spl => if 0 < p.V_SPH then .sph else .bp
  | .sph => .bp
  | .bp => .vis

/-- The lines of a phase of VGEN (R9). -/
def vLength (p : Params) : VPhase → Nat
  | .vis => p.V
  | .fp => p.V_FP
  | .spl => p.V_SPL
  | .sph => p.V_SPH
  | .bp => p.V_BP

/-- VGEN's registers after a line event: VSYNC is low in the low sync sub-span only, and the last line loads the next phase's count. -/
def vgenNext (p : Params) (g : VGen) : VGen :=
  let level := decide (g.phase ≠ .spl)
  if g.cnt = 1 then { phase := vAfter p g.phase, cnt := BitVec.ofNat 32 (vLength p (vAfter p g.phase)), vsync := level }
  else { phase := g.phase, cnt := g.cnt - 1, vsync := level }

theorem vgenNext_vsync (p : Params) (g : VGen) : (vgenNext p g).vsync = decide (g.phase ≠ .spl) := by
  unfold vgenNext
  split <;> rfl

/-- With FLAG_A 1, a step of an enabled VGEN writes its registers, consumes FLAG_A, and sets FLAG_B where the line is visible. -/
theorem agentStep_vgen {s : State} (hc : Clean s) (he : s.smEn.getLsbD 1 = true) (ha : s.flagA = true) :
    agentStep .vgen s = .next { s with
      vgen := vgenNext s.cfg s.vgen, flagA := false, flagB := s.flagB || decide (s.vgen.phase = .vis) } := by
  have en : agentEnabled .vgen s = true := by simp [agentEnabled, agentIssue, unitEnabled, hc.halted_eq, he]
  rw [agentStep_unitOp en rfl, vgenOp, if_neg (by simp [ha])]
  have guard {ph : VPhase} (hp : s.vgen.phase = ph) : vgenIn ph s = true := vgenIn_iff.2 ⟨hc, he, ha, hp⟩
  cases hp : s.vgen.phase with
  | vis =>
    simp only [exec_of_guard (exec_vVis s) (guard hp), vgenEvent_of_phase hp]
    simp [raiseB, vgenNext, vAfter, vLength, hp]
  | fp =>
    simp only [exec_of_guard (exec_vFp s) (guard hp), vgenEvent_of_phase hp]
    simp [vgenNext, vAfter, vLength, hp]
  | spl =>
    simp only [exec_of_guard (exec_vSpl s) (guard hp), vgenEvent_spl hp]
    by_cases hv : 0 < s.cfg.V_SPH <;> simp [vgenNext, vAfter, vLength, hp, hv]
  | sph =>
    simp only [exec_of_guard (exec_vSph s) (guard hp), vgenEvent_of_phase hp]
    simp [vgenNext, vAfter, vLength, hp]
  | bp =>
    simp only [exec_of_guard (exec_vBp s) (guard hp), vgenEvent_of_phase hp]
    simp [vgenNext, vAfter, vLength, hp]

/-- A line event: FLAG_A is set, and consumed by VGEN's step (R103). -/
theorem lineEvents_one {s : State} (hc : Clean s) (he : s.smEn.getLsbD 1 = true) : lineEvents 1 s = some { s with
    vgen := vgenNext s.cfg s.vgen, flagA := false, flagB := s.flagB || decide (s.vgen.phase = .vis) } := by
  simp only [lineEvents, agentStep_vgen (s := raiseA s) hc he rfl]
  rfl

/-- One more line event after n of them. -/
theorem lineEvents_succ (n : Nat) (s : State) : lineEvents (n + 1) s = (lineEvents n s).bind (lineEvents 1) := by
  induction n generalizing s with
  | zero => rfl
  | succ n ih =>
    rw [lineEvents, lineEvents]
    cases agentStep .vgen (raiseA s) with
    | next t => exact ih t
    | fault f => rfl
    | refused r => rfl

/-! ### VGEN's frame (R103) -/

/-- The line event of a frame a phase of VGEN begins with. -/
def vFirst (p : Params) : VPhase → Nat
  | .vis => 0
  | .fp => p.V
  | .spl => p.V + p.V_FP
  | .sph => p.V + p.V_FP + p.V_SPL
  | .bp => p.V + p.V_FP + p.V_SPL + p.V_SPH

/-- VGEN before line event e of a frame. -/
def InFrame (p : Params) (e : Nat) (g : VGen) : Prop := CountsDown (vFirst p g.phase) (vLength p g.phase) e g.cnt

theorem vLength_lt {p : Params} (c : CfgFacts p) (ph : VPhase) : vLength p ph < 2 ^ 32 := by
  cases ph with
  | vis => exact c.vmax
  | fp => exact c.vfp.2
  | spl => exact c.vspl.2
  | sph => exact c.vsph
  | bp => exact c.vbp.2

/-- A phase that VGEN goes on to has a line. -/
theorem vLength_vAfter_pos {p : Params} (c : CfgFacts p) (ph : VPhase) : 1 ≤ vLength p (vAfter p ph) := by
  cases ph with
  | vis => exact c.vfp.1
  | fp => exact c.vspl.1
  | spl =>
    rw [vAfter]
    split
    · assumption
    · exact c.vbp.1
  | sph => exact c.vbp.1
  | bp => exact c.v1

/-- The phase after a phase of a frame begins where that phase ends, unless the frame ends there. -/
theorem vFirst_vAfter (p : Params) {ph : VPhase} (h : ph ≠ .bp) : vFirst p (vAfter p ph) = vFirst p ph + vLength p ph := by
  cases ph with
  | vis => exact (Nat.zero_add _).symm
  | fp | sph => rfl
  | spl =>
    rw [vAfter]
    split
    · rfl
    · simp only [vFirst, vLength]
      omega
  | bp => exact absurd rfl h

theorem inFrame_initVGen {p : Params} (c : CfgFacts p) : InFrame p 0 (initVGen p) := CountsDown.start c.v1

/-- The visible lines are the first V, the front porch is the next V_FP, and the low sync sub-span is the V_SPL after these. -/
theorem InFrame.phase_iff {p : Params} {e : Nat} {g : VGen} (h : InFrame p e g) :
    (g.phase = .vis ↔ e < p.V) ∧ (g.phase = .fp ↔ p.V ≤ e ∧ e < p.V + p.V_FP) ∧
    (g.phase = .spl ↔ p.V + p.V_FP ≤ e ∧ e < p.V + p.V_FP + p.V_SPL) := by
  obtain ⟨hf, hl, -⟩ := h
  cases hp : g.phase <;> simp only [hp, vFirst, vLength, reduceCtorEq, true_iff, false_iff] at hf hl ⊢ <;> omega

/-- The last line event of a frame is the last of the back porch. -/
theorem InFrame.last_iff {p : Params} (c : CfgFacts p) {e : Nat} {g : VGen} (h : InFrame p e g) :
    (g.phase = .bp ∧ g.cnt = 1) ↔ e + 1 = p.T_V := by
  have hbp := c.vbp
  rw [h.cnt_eq_one_iff (vLength_lt c _)]
  obtain ⟨hf, hl, -⟩ := h
  simp only [Params.T_V]
  cases hp : g.phase <;> simp only [hp, vFirst, vLength, reduceCtorEq, true_and, false_and, false_iff] at hf hl ⊢ <;> omega

/-- A line event that is not the last brings VGEN to the next line event of the frame. -/
theorem InFrame.next {p : Params} (c : CfgFacts p) {e : Nat} {g : VGen} (h : InFrame p e g) (he : e + 1 ≠ p.T_V) :
    InFrame p (e + 1) (vgenNext p g) := by
  by_cases h1 : g.cnt = 1#32
  · have hnb : g.phase ≠ .bp := fun hp => he ((h.last_iff c).1 ⟨hp, h1⟩)
    simpa [InFrame, vgenNext, h1] using
      CountsDown.move h (vLength_lt c _) h1 (vFirst_vAfter p hnb) (vLength_vAfter_pos c g.phase)
  · simpa [InFrame, vgenNext, h1] using CountsDown.stay h (vLength_lt c _) h1

/-- The last line event of a frame brings VGEN back to its initial state. -/
theorem InFrame.next_last {p : Params} (c : CfgFacts p) {e : Nat} {g : VGen} (h : InFrame p e g) (he : e + 1 = p.T_V) :
    vgenNext p g = initVGen p := by
  obtain ⟨hp, h1⟩ := (h.last_iff c).2 he
  simp [vgenNext, hp, h1, vAfter, vLength, initVGen]

/-- e line events of a frame leave the state as it was but for VGEN's registers and the flags; the first of them sets FLAG_B. -/
theorem lineEvents_inFrame {s : State} (hc : Clean s) (c : CfgFacts s.cfg) (he : s.smEn.getLsbD 1 = true)
    (hi : s.vgen = initVGen s.cfg) {e : Nat} (hlt : e < s.cfg.T_V) : ∃ g a b, InFrame s.cfg e g ∧
      lineEvents e s = some { s with vgen := g, flagA := a, flagB := b } ∧ (0 < e → b = true) := by
  induction e with
  | zero => exact ⟨s.vgen, s.flagA, s.flagB, hi ▸ inFrame_initVGen c, rfl, fun h => absurd h (Nat.lt_irrefl 0)⟩
  | succ e ih =>
    obtain ⟨g, a, b, hg, hrun, hb⟩ := ih (by omega)
    refine ⟨vgenNext s.cfg g, false, b || decide (g.phase = .vis), hg.next c (by omega), ?_, fun _ => ?_⟩
    · rw [lineEvents_succ, hrun, Option.bind_some]
      exact lineEvents_one (s := { s with vgen := g, flagA := a, flagB := b }) hc he
    · rcases Nat.eq_zero_or_pos e with rfl | hpos
      · simp [hg.phase_iff.1.2 c.v1]
      · simp [hb hpos]

/-- Settles O24: by the place in the frame VGEN has reached; the last line event is the last of the back porch. -/
theorem vgenFrame : Obligations.VgenFrame := by
  intro s hc hcfg hen hi
  have c := cfgFacts hcfg
  refine ⟨fun e he => ?_, ?_⟩
  · obtain ⟨g, a, b, hg, hrun, -⟩ := lineEvents_inFrame hc c hen hi he
    obtain ⟨hvis, hfp, hspl⟩ := hg.phase_iff
    refine ⟨_, _, hrun, lineEvents_one (s := { s with vgen := g, flagA := a, flagB := false }) hc hen, rfl, ?_, hfp, ?_⟩
    · simp only [hvis, Bool.false_or]
    · simp only [vgenNext_vsync, ne_eq, hspl, decide_not, Bool.decide_and]
  · have hv := c.v1
    have hfp := c.vfp
    obtain ⟨n, hn⟩ : ∃ n, n + 2 = s.cfg.T_V := ⟨s.cfg.T_V - 2, by simp only [Params.T_V]; omega⟩
    obtain ⟨g, a, b, hg, hrun, hb⟩ := lineEvents_inFrame hc c hen hi (e := n + 1) (by omega)
    rw [← hn, lineEvents_succ, hrun, Option.bind_some,
      lineEvents_one (s := { s with vgen := g, flagA := a, flagB := b }) hc hen]
    simp only [hg.next_last c hn, hb n.succ_pos, ← hi, Bool.true_or]

end Sys2Proof.Machine
end

section
/-! CGEN's line (R106, R108 to R111, R115): its registers between two pixels and in the cycles of a pixel, and the run of a line pixel by
pixel. -/

namespace Sys2Proof.Machine

/-! ### Fields of a word -/

/-- The low field of a word shifted down by n slots is its slot n. -/
theorem extractLsb'_ushiftRight_slot (w : Word) (n : Nat) : (w >>> (3 * n)).extractLsb' 0 3 = slotOf w n := by
  rw [slotOf, ← BitVec.setWidth_ushiftRight_eq_extractLsb, ← BitVec.setWidth_ushiftRight_eq_extractLsb, BitVec.ushiftRight_zero]

/-- A slot of a word is the field at the slot's bit offset (R76, R144). -/
theorem setWidth_slotOf (w : Word) (n : Nat) : (slotOf w n).setWidth 32 = pixelOf w (3 * n) := by
  rw [slotOf, ← BitVec.setWidth_ushiftRight_eq_extractLsb, pixelOf]
  apply BitVec.eq_of_toNat_eq
  have h7 := Nat.and_two_pow_sub_one_eq_mod (w >>> (3 * n)).toNat 3
  simp only [BitVec.toNat_setWidth, BitVec.toNat_and, BitVec.ofNat_eq_ofNat, BitVec.toNat_ofNat, Nat.reducePow, Nat.reduceMod,
    Nat.reduceSub] at h7 ⊢
  omega

/-! ### CGEN between two pixels of a line (R106, R110) -/

/-- CGEN with q pixels of a line driven, from the registers `g₀` at the line's start on: what is left of the word it shows, the words
it has taken off the FIFO, and the last of them in the latch. -/
structure AfterPixels (p : Params) (g₀ : CGen) (q : Nat) (g : CGen) : Prop where
  px : g.px = BitVec.ofNat 32 (p.H - q)
  osrn : g.osrn.toNat = g.px.toNat % pixelsPerWord
  osr : q % 10 ≠ 0 → g.osr = displayedWord g₀ (q / 10) >>> (3 * (q % 10))
  next : g.next = displayedWord g₀ ((q + 9) / 10)
  fifo : g.fifo = g₀.fifo.drop ((q + 9) / 10)

/-- The FIFO from a word on: the word, which is the one displayed after that many, and the rest. -/
theorem drop_fifo {g₀ : CGen} {m : Nat} (h : m < g₀.fifo.length) :
    g₀.fifo.drop m = displayedWord g₀ (m + 1) :: g₀.fifo.drop (m + 1) := by
  rw [List.drop_eq_getElem_cons h, displayedWord, List.getD_eq_getElem _ _ h]

theorem AfterPixels.px_toNat {p : Params} (c : CfgFacts p) {g₀ g : CGen} {q : Nat} (h : AfterPixels p g₀ q g) :
    g.px.toNat = p.H - q := by
  have := c.hmax
  rw [h.px, BitVec.toNat_ofNat, Nat.mod_eq_of_lt (by omega)]

/-- The shift register is empty exactly at a word's boundary. -/
theorem AfterPixels.osrn_eq_zero_iff {p : Params} (c : CfgFacts p) {g₀ g : CGen} {q : Nat} (h : AfterPixels p g₀ q g)
    (hq : q ≤ p.H) : g.osrn = 0 ↔ q % 10 = 0 := by
  have hH := c.h_eq
  have hn : g.osrn.toNat = (p.H - q) % 10 := by rw [h.osrn, h.px_toNat c, pixelsPerWord]
  simp only [← BitVec.toNat_inj, hn, BitVec.ofNat_eq_ofNat, BitVec.toNat_ofNat, Nat.zero_mod]
  omega

/-- Loading leaves the rest of the displayed word in the shift register, the next word in the latch, and the words after it in the
FIFO. -/
theorem AfterPixels.loaded_fields {p : Params} (c : CfgFacts p) {g₀ g : CGen} {q : Nat} (h : AfterPixels p g₀ q g) (hq : q < p.H)
    (hw : p.WPR ≤ g₀.fifo.length) :
    (loaded g).osr = displayedWord g₀ (q / 10) >>> (3 * (q % 10)) ∧ (loaded g).next = displayedWord g₀ (q / 10 + 1) ∧
    (loaded g).fifo = g₀.fifo.drop (q / 10 + 1) := by
  have hH := c.h_eq
  by_cases h0 : q % 10 = 0
  · have hm : (q + 9) / 10 = q / 10 := by omega
    have hf : g.fifo = displayedWord g₀ (q / 10 + 1) :: g₀.fifo.drop (q / 10 + 1) := by
      rw [h.fifo, hm, drop_fifo (by omega)]
    rw [loaded_of_osrn_eq ((h.osrn_eq_zero_iff c hq.le).2 h0) hf, h0]
    exact ⟨by rw [← hm]; exact h.next, rfl, rfl⟩
  · have hm : (q + 9) / 10 = q / 10 + 1 := by omega
    rw [loaded_of_osrn_ne (mt (h.osrn_eq_zero_iff c hq.le).1 h0), ← hm]
    exact ⟨h.osr h0, h.next, h.fifo⟩

/-- In the middle of a line with WPR words, CGEN can drive a pixel. -/
theorem AfterPixels.can_drive {p : Params} (c : CfgFacts p) {g₀ g : CGen} {q : Nat} (h : AfterPixels p g₀ q g) (hq : q < p.H)
    (hw : p.WPR ≤ g₀.fifo.length) : g.osrn ≠ 0 ∨ 0 < g.fifo.length := by
  have hH := c.h_eq
  rw [ne_eq, h.osrn_eq_zero_iff c hq.le, h.fifo, List.length_drop]
  omega

/-- Driving a pixel shows its slot of the displayed word, and leaves CGEN with one more pixel driven. -/
theorem AfterPixels.drive {p : Params} (c : CfgFacts p) {g₀ g : CGen} {q : Nat} (h : AfterPixels p g₀ q g) (hq : q < p.H)
    (hw : p.WPR ≤ g₀.fifo.length) (n : Nat) :
    AfterPixels p g₀ (q + 1) (drivePixel n (loaded g)) ∧
    (drivePixel n (loaded g)).color = slotOf (displayedWord g₀ (q / 10)) (q % 10) := by
  obtain ⟨hosr, hnext, hfifo⟩ := h.loaded_fields c hq hw
  have hm : (q + 1 + 9) / 10 = q / 10 + 1 := by omega
  have hpx0 : g.px ≠ 0 := fun h0 => by
    have := h.px_toNat c
    simp [h0] at this
    omega
  refine ⟨⟨?_, ?_, fun h0 => ?_, ?_, ?_⟩, ?_⟩
  · simp only [drivePixel, loaded_px, h.px]
    exact ofNat_sub_one (by omega)
  · simpa only [drivePixel, loaded_px] using loaded_osrn_sub_one h.osrn hpx0
  · have h1 : (q + 1) / 10 = q / 10 := by omega
    have h2 : 3 * ((q + 1) % 10) = 3 * (q % 10) + 3 := by omega
    simp only [drivePixel, hosr, h1, h2, BitVec.shiftRight_add]
  · simp only [drivePixel, hnext, hm]
  · simp only [drivePixel, hfifo, hm]
  · simp only [drivePixel, hosr, extractLsb'_ushiftRight_slot]

/-! ### The cycles of a pixel (R106, R108) -/

/-- The phase CGEN is in with q pixels driven and no dwell cycle left. -/
def lineCPhase (p : Params) (q : Nat) : CPhase := if q = p.H then .blank else .pixel

/-- CGEN after r cycles of pixel q of a line: the pixel is shown, and the cycles left are dwell cycles. -/
structure InPixel (p : Params) (g₀ : CGen) (q r : Nat) (g : CGen) : Prop where
  after : AfterPixels p g₀ (q + 1) g
  color : g.color = slotOf (displayedWord g₀ (q / 10)) (q % 10)
  dwell : r < p.C_PIX → g.phase = .dwell ∧ g.dw = BitVec.ofNat 32 (p.C_PIX - r)
  done : r = p.C_PIX → g.phase = lineCPhase p (q + 1)

/-- C_PX is 0 exactly where the line's pixels are driven. -/
theorem AfterPixels.px_eq_zero_iff {p : Params} (c : CfgFacts p) {g₀ g : CGen} {q : Nat} (h : AfterPixels p g₀ q g)
    (hq : q ≤ p.H) : g.px = 0 ↔ q = p.H := by
  have := c.hmax
  rw [h.px, ofNat_eq_zero_iff (by omega)]
  omega

/-- C.OUT begins a pixel (R106). -/
theorem AfterPixels.inPixel {p : Params} (c : CfgFacts p) {g₀ g : CGen} {q : Nat} (h : AfterPixels p g₀ q g) (hq : q < p.H)
    (hw : p.WPR ≤ g₀.fifo.length) (hp : g.phase = .pixel) : InPixel p g₀ q 1 (drivePixel p.C_PIX (loaded g)) := by
  obtain ⟨hafter, hcolor⟩ := h.drive c hq hw p.C_PIX
  refine ⟨hafter, hcolor, fun h1 => ?_, fun h1 => ?_⟩
  · simp only [drivePixel, gt_iff_lt, h1, if_true, and_self]
  · have hlast : (loaded g).px - 1 = 0 ↔ q + 1 = p.H := hafter.px_eq_zero_iff c hq
    simp only [drivePixel, lineCPhase, hlast, loaded_phase, hp, ← h1, gt_iff_lt, Nat.lt_irrefl, if_false]

/-- CGEN after a dwell cycle (R108). -/
def cgenDwell (g : CGen) : CGen := { g with
  dw := g.dw - 1
  phase := if g.dw - 1 = 0 then (if g.px = 0 then .blank else .pixel) else .dwell }

/-- C.DWELL holds the pixel for one cycle more (R108). -/
theorem InPixel.dwell_next {p : Params} (c : CfgFacts p) {g₀ g : CGen} {q r : Nat} (h : InPixel p g₀ q r g) (hq : q < p.H)
    (hr : r < p.C_PIX) : InPixel p g₀ q (r + 1) (cgenDwell g) := by
  have hmax := c.cpix.2
  obtain ⟨hp, hdw⟩ := h.dwell hr
  have hdw' : g.dw - 1 = BitVec.ofNat 32 (p.C_PIX - (r + 1)) := by rw [hdw, ofNat_sub_one (by omega)]; rfl
  have h0 : g.dw - 1 = 0 ↔ r + 1 = p.C_PIX := by rw [hdw', ofNat_eq_zero_iff (by omega)]; omega
  refine ⟨⟨h.after.px, h.after.osrn, h.after.osr, h.after.next, h.after.fifo⟩, h.color, fun h1 => ⟨?_, hdw'⟩, fun h1 => ?_⟩
  · simp only [cgenDwell, h0, h1.ne, if_false]
  · simp only [cgenDwell, lineCPhase, h0, h1, h.after.px_eq_zero_iff c hq, if_true]

/-! ### The run of a line (R110, R111, R115) -/

section
variable {s : State} (hc : Clean s) (he : s.smEn.getLsbD 2 = true)
include hc he

/-- A step of an enabled CGEN is the operation its state selects. -/
theorem agentStep_cgen : agentStep .cgen s = exec (cgenOp s) s :=
  agentStep_unitOp (by simp [agentEnabled, agentIssue, unitEnabled, hc.halted_eq, he]) rfl

theorem runAgents_cOut (hp : s.cgen.phase = .pixel) (hd : s.cgen.osrn ≠ 0 ∨ 0 < s.cgen.fifo.length) :
    runAgents [.cgen] s = some { s with cgen := drivePixel s.cfg.C_PIX (loaded s.cgen) } := by
  have hdrive : canDrive s = true := canDrive_iff.2 (hd.imp_right List.length_pos_iff.1)
  apply runAgents_singleton
  rw [agentStep_cgen hc he, cgenOp_pixel hp, if_pos hdrive]
  exact exec_of_guard (exec_cOut_loaded s) (cOutGuard_iff.2 ⟨hc, he, hp, hd⟩)

theorem runAgents_cDwell (hp : s.cgen.phase = .dwell) : runAgents [.cgen] s = some { s with cgen := cgenDwell s.cgen } := by
  apply runAgents_singleton
  rw [agentStep_cgen hc he, cgenOp, hp]
  exact exec_of_guard (exec_cDwell s) (cgenIn_iff.2 ⟨hc, he, hp⟩)

theorem runAgents_cBlank (hp : s.cgen.phase = .blank) :
    runAgents [.cgen] s = some { s with cgen := { s.cgen with color := 0, phase := .waitb } } := by
  apply runAgents_singleton
  rw [agentStep_cgen hc he, cgenOp, hp]
  exact exec_of_guard (exec_cBlank s) (cgenIn_iff.2 ⟨hc, he, hp⟩)

/-- From the start of a pixel on, each of its cycles shows it and writes nothing but CGEN. -/
theorem runAgents_pixel (c : CfgFacts s.cfg) (hw : s.cfg.WPR ≤ s.cgen.fifo.length) {q n : Nat} (hq : q < s.cfg.H) {g : CGen}
    (hrun : runAgents (List.replicate n .cgen) s = some { s with cgen := g }) (hg : AfterPixels s.cfg s.cgen q g)
    (hp : g.phase = .pixel) {r : Nat} (hr : r < s.cfg.C_PIX) : ∃ g',
      runAgents (List.replicate (n + r + 1) .cgen) s = some { s with cgen := g' } ∧ InPixel s.cfg s.cgen q (r + 1) g' := by
  induction r with
  | zero =>
    refine ⟨_, ?_, hg.inPixel c hq hw hp⟩
    rw [runAgents_replicate_succ, hrun, Option.bind_some]
    exact runAgents_cOut (s := { s with cgen := g }) hc he hp (hg.can_drive c hq hw)
  | succ r ih =>
    obtain ⟨g', hrun', hg'⟩ := ih (by omega)
    refine ⟨_, ?_, hg'.dwell_next c hq hr⟩
    rw [runAgents_replicate_succ, ← Nat.add_assoc, hrun', Option.bind_some]
    exact runAgents_cDwell (s := { s with cgen := g' }) hc he (hg'.dwell hr).1

/-- Where a line starts with WPR words in the FIFO, q of its pixels take C_PIX cycles each and write nothing but CGEN. -/
theorem runAgents_pixels (c : CfgFacts s.cfg) (hw : s.cfg.WPR ≤ s.cgen.fifo.length) (hp : s.cgen.phase = .pixel)
    (hpx : s.cgen.px = BitVec.ofNat 32 s.cfg.H) (ho : s.cgen.osrn = 0) {q : Nat} (hq : q ≤ s.cfg.H) : ∃ g,
      runAgents (List.replicate (q * s.cfg.C_PIX) .cgen) s = some { s with cgen := g } ∧
      AfterPixels s.cfg s.cgen q g ∧ g.phase = lineCPhase s.cfg q := by
  have hH := c.h_eq
  have h10 := c.h10
  have hC := c.cpix.1
  induction q with
  | zero =>
    refine ⟨s.cgen, by rw [Nat.zero_mul]; rfl, ⟨hpx, ?_, fun h => absurd rfl h, rfl, rfl⟩, ?_⟩
    · rw [ho, hpx, BitVec.toNat_ofNat, Nat.mod_eq_of_lt c.hmax, hH, pixelsPerWord, Nat.mul_mod_right]
      rfl
    · rw [hp, lineCPhase, if_neg (by omega)]
  | succ q ih =>
    obtain ⟨g, hrun, hg, hgp⟩ := ih (by omega)
    rw [lineCPhase, if_neg (by omega)] at hgp
    obtain ⟨g', hrun', hg'⟩ := runAgents_pixel hc he c hw hq hrun hg hgp (r := s.cfg.C_PIX - 1) (by omega)
    have hn : q * s.cfg.C_PIX + (s.cfg.C_PIX - 1) + 1 = (q + 1) * s.cfg.C_PIX := by rw [Nat.succ_mul]; omega
    exact ⟨g', hn ▸ hrun', hg'.after, hg'.done (by omega)⟩

end

/-- Settles O25: pixel by pixel, and C.BLANK after the last. -/
theorem cgenLine : Obligations.CgenLine := by
  intro s hc hcfg he hp hpx ho hw
  have c := cfgFacts hcfg
  refine ⟨fun q r hq hr => ?_, ?_⟩
  · obtain ⟨g, hrun, hg, hgp⟩ := runAgents_pixels hc he c hw hp hpx ho hq.le
    rw [lineCPhase, if_neg hq.ne] at hgp
    obtain ⟨g', hrun', hg'⟩ := runAgents_pixel hc he c hw hq hrun hg hgp hr
    exact ⟨_, hrun', hg'.color⟩
  · obtain ⟨g, hrun, hg, hgp⟩ := runAgents_pixels hc he c hw hp hpx ho (Nat.le_refl s.cfg.H)
    rw [lineCPhase, if_pos rfl] at hgp
    have hblank := runAgents_cBlank (s := { s with cgen := g }) hc he hgp
    have hm : (s.cfg.H + 9) / 10 = s.cfg.WPR := by have := c.h_eq; omega
    refine ⟨{ s with cgen := { g with color := 0, phase := .waitb } }, ?_, rfl, rfl, rfl,
      (hg.px_eq_zero_iff c (Nat.le_refl _)).2 rfl, (hg.osrn_eq_zero_iff c (Nat.le_refl _)).2 ?_, hm ▸ hg.fifo, hm ▸ hg.next⟩
    · rw [runAgents_replicate_succ, hrun, Option.bind_some, hblank]
    · have := c.h_eq
      omega

end Sys2Proof.Machine
end

section
/-! The row a line shows (R112, R136, R139): the words of the line are framebuffer words, each at the display position that the
translator computes for its pixels. -/

namespace Sys2Proof.Machine

/-- The word index of a display position: the position before it, the last word's before the first (R136). -/
theorem wordIndex_eq_mod {p : Params} {j : Nat} (hj : j < p.N) : wordIndex p j = (j + p.N - 1) % p.N := by
  cases j with
  | zero => rw [wordIndex, if_pos rfl, Nat.zero_add, Nat.mod_eq_of_lt (by omega)]
  | succ j =>
    rw [wordIndex, if_neg j.succ_ne_zero, show j + 1 + p.N - 1 = j + p.N by omega, Nat.add_mod_right, Nat.mod_eq_of_lt (by omega),
      Nat.add_sub_cancel]

/-- A pixel of row y is slot x mod 10 of display position y * WPR + x / 10 (R136). -/
theorem pixelBit_eq {p : Params} (c : CfgFacts p) (x y : Nat) : pixelBit p x y = 30 * (y * p.WPR + x / 10) + 3 * (x % 10) := by
  have hx : y * p.H * 3 = 30 * (y * p.WPR) := by rw [c.h_eq]; ring
  rw [pixelBit, bitsPerPixel, hx]
  omega

/-- A display position of a row is below N. -/
theorem position_lt {p : Params} (c : CfgFacts p) {y m : Nat} (hy : y < p.V) (hm : m < p.WPR) : y * p.WPR + m < p.N := by
  have h := Nat.mul_le_mul_right p.WPR (Nat.succ_le_of_lt hy)
  rw [Nat.succ_mul] at h
  rw [c.n_eq]
  omega

/-- XLATE names slot x mod 10 of the framebuffer word before display position y * WPR + x / 10 (R136). -/
theorem xlate_of_lt {p : Params} (c : CfgFacts p) {x y : Nat} (hx : x < p.H) (hy : y < p.V) :
    let k := (y * p.WPR + x / 10 + p.N - 1) % p.N
    xlate p x y = .ok { k := k, p := 3 * (x % 10), addr := fbAddr p k } := by
  have hH := c.h_eq
  have hj : pixelBit p x y / 30 = y * p.WPR + x / 10 := by rw [pixelBit_eq c]; omega
  have hb : pixelBit p x y % 30 = 3 * (x % 10) := by rw [pixelBit_eq c]; omega
  have hin : ¬ (x ≥ p.H ∨ y ≥ p.V) := by omega
  simp only [xlate, usableBits, hj, hb, hin, if_false, wordIndex_eq_mod (position_lt c hy (m := x / 10) (by omega))]

/-- The word displayed at position m of a row is the framebuffer word before it, where the latch and the FIFO hold the row (R112). -/
theorem displayedWord_row {s : State} {y m : Nat} (c : CfgFacts s.cfg) (hy : y < s.cfg.V)
    (hnext : s.cgen.next = fbWord s ((y * s.cfg.WPR + s.cfg.N - 1) % s.cfg.N))
    (hfifo : s.cgen.fifo.take s.cfg.WPR = (List.range s.cfg.WPR).map (fun m => fbWord s (y * s.cfg.WPR + m)))
    (hm : m ≤ s.cfg.WPR) :
    displayedWord s.cgen m = fbWord s ((y * s.cfg.WPR + m + s.cfg.N - 1) % s.cfg.N) := by
  cases m with
  | zero => exact hnext
  | succ m =>
    have hget : s.cgen.fifo[m]? = some (fbWord s (y * s.cfg.WPR + m)) := by
      rw [← List.getElem?_take_of_lt (Nat.lt_of_succ_le hm), hfifo]
      simp [Nat.lt_of_succ_le hm]
    have hpos := position_lt c hy (Nat.lt_of_succ_le hm)
    rw [displayedWord, List.getD_eq_getElem?_getD, hget, Option.getD_some,
      show y * s.cfg.WPR + (m + 1) + s.cfg.N - 1 = y * s.cfg.WPR + m + s.cfg.N by omega, Nat.add_mod_right, Nat.mod_eq_of_lt hpos]

/-- Settles O26: the words of the line are the framebuffer words of the row, and a pixel's slot is at the bit offset XLATE names. -/
theorem rowShowsTranslatedPixels : Obligations.RowShowsTranslatedPixels := by
  intro s y hc hcfg he hp hpx ho hy hnext hfifo
  have c := cfgFacts hcfg
  have hH := c.h_eq
  have hw : s.cfg.WPR ≤ s.cgen.fifo.length := by
    have hlen := congrArg List.length hfifo
    simp only [List.length_take, List.length_map, List.length_range] at hlen
    omega
  obtain ⟨hpixels, t, hrun, -, hphase, -, -, -, hrest, hlatch⟩ := cgenLine s hc hcfg he hp hpx ho hw
  refine ⟨fun x hx => ?_, t, hrun, hphase, hrest, ?_⟩
  · obtain ⟨u, hu, hcolor⟩ := hpixels x 0 hx c.cpix.1
    refine ⟨u, _, hu, xlate_of_lt c hx hy, ?_⟩
    rw [hcolor, setWidth_slotOf, displayedWord_row c hy hnext hfifo (by omega), fbWord, fbAddr_toNat c (Nat.mod_lt _ c.n.1)]
  · rw [hlatch, displayedWord_row c hy hnext hfifo (Nat.le_refl _), Nat.succ_mul]

end Sys2Proof.Machine
end

section
/-! The operations of a DMA channel (R117, R118, R121, R122, R126): where a transfer runs, and what a trigger, an abort and a completion
leave. -/

namespace Sys2Proof.Machine

/-! ### Where a transfer runs (R117, R118) -/

/-- The pacing signal of a select R117 gives a signal for. -/
theorem dreq_iff {c : Chan} {s : State} (h : (chan s c).ctrl.treqSel = 2 ∨ (chan s c).ctrl.treqSel = 0x3F) :
    dreq c s = true ↔ ((chan s c).ctrl.treqSel = 2 ∧ s.cgen.fifo.length < s.cfg.F) ∨ (chan s c).ctrl.treqSel = 0x3F := by
  rcases h with h | h
  · simp only [dreq, h, if_true, decide_eq_true_eq, true_and, show (2 : BitVec 6) ≠ 0x3F by decide, or_false]
    exact Iff.rfl
  · simp [dreq, h]

/-- The transfer condition, as the model tests it. -/
theorem xferReady_iff {c : Chan} {s : State} (h : (chan s c).ctrl.treqSel = 2 ∨ (chan s c).ctrl.treqSel = 0x3F) :
    xferReady c s = true ↔ TransferCondition c s := by
  simp only [xferReady, TransferCondition, Bool.and_eq_true, decide_eq_true_eq, dreq_iff h, and_assoc]
  exact and_congr_right fun _ => and_congr_right fun _ => and_congr_left' (BitVec.pos_iff_ne_zero _)

/-- Nothing is recorded and the channel is ready, as the model tests it. -/
theorem dmaGuard_iff {c : Chan} {s : State} (h : (chan s c).ctrl.treqSel = 2 ∨ (chan s c).ctrl.treqSel = 0x3F) :
    (!halted s && xferReady c s) = true ↔ Clean s ∧ TransferCondition c s := by
  rw [Bool.and_eq_true, xferReady_iff h, Bool.not_eq_true', halted_eq_false, Clean]

/-- A channel is enabled where nothing is recorded and it is ready (R14, R118). -/
theorem agentEnabled_dma (c : Chan) (s : State) : agentEnabled (.dma c) s = (!halted s && xferReady c s) := by
  rw [agentEnabled, agentIssue]
  cases xferReady c s <;> rfl

/-- A committed operation always answers a next state, so a guarded one answers it exactly where its guard holds. -/
theorem runsExactlyWhen_of_commit {i : Instr} {s : State} {b : Bool} {r : Except FaultRec State} {p : Prop}
    (h : exec i s = guardOp b (commit s r)) (hb : b = true ↔ p) : RunsExactlyWhen i s p := by
  have hr : ∃ t, commit s r = .next t := by cases r <;> exact ⟨_, rfl⟩
  simp only [RunsExactlyWhen, h, guardOp_next, exists_and_left, hb, hr, and_true]

/-- Settles O32: the channel's enabledness and the operation's guard are the same test, and the test is the transfer condition. -/
theorem transferWhenReady : Obligations.TransferWhenReady := by
  refine ⟨termCodes.1 _ _ (by simp), termCodes.1 _ _ (by simp), fun s c h => ⟨?_, ?_⟩⟩
  · rw [agentEnabled_dma, dmaGuard_iff h]
  · exact runsExactlyWhen_of_commit (r := xfer c s) rfl (dmaGuard_iff h)

/-! ### Triggers (R121) -/

/-- The control values a trigger admits, as the model tests them (R51). -/
theorem ctrlLegal_iff {k : Ctrl} : ctrlLegal k = true ↔ CtrlLegal k := by
  simp [ctrlLegal, CtrlLegal, and_assoc]

section
variable {c : Chan} {s : State}

theorem trigger_disabled (he : (chan s c).ctrl.en = false) : trigger c s = .ok s := by
  simp [trigger, he]

theorem trigger_busy (he : (chan s c).ctrl.en = true) (hb : (chan s c).busy = true) : trigger c s = .error (.triggerBusy c) := by
  simp [trigger, he, hb]

theorem trigger_zeroCount (he : (chan s c).ctrl.en = true) (hb : (chan s c).busy = false) (hn : (chan s c).transCount = 0) :
    trigger c s = .error (.zeroCount c) := by
  simp [trigger, he, hb, hn]

theorem trigger_illegal (he : (chan s c).ctrl.en = true) (hb : (chan s c).busy = false) (hn : (chan s c).transCount ≠ 0)
    (hl : ¬ CtrlLegal (chan s c).ctrl) : trigger c s = .error (.badCtrl c) := by
  have hl' : ctrlLegal (chan s c).ctrl = false := by rwa [← ctrlLegal_iff, Bool.not_eq_true] at hl
  simp only [trigger, he, hb, hn, hl', Bool.true_eq_false, Bool.false_eq_true, if_true, if_false]

theorem trigger_starts (he : (chan s c).ctrl.en = true) (hb : (chan s c).busy = false) (hn : (chan s c).transCount ≠ 0)
    (hl : CtrlLegal (chan s c).ctrl) :
    trigger c s = .ok (setChan c { chan s c with remain := (chan s c).transCount, busy := true } s) := by
  simp only [trigger, he, hb, hn, ctrlLegal_iff.2 hl, Bool.true_eq_false, Bool.false_eq_true, if_false]

end

/-- An operation that ends as its result is committed answers the state of a result that is one. -/
theorem next_of_commit {i : Instr} {s t : State} {r : Except FaultRec State} (h : exec i s = commit s r) (hr : r = .ok t) :
    exec i s = .next t := by
  rw [h, hr, commit_ok]

/-- An operation that ends as its result is committed records the fault of a result that is one (R184). -/
theorem faults_of_commit {i : Instr} {s : State} {r : Except FaultRec State} {f : FaultRec} (h : exec i s = commit s r)
    (hr : r = .error f) : Faults i s f := by
  rw [Faults, h, hr, commit_error, recordFault]

/-- An operation that ends with a trigger: the cases of the trigger in the rule's order (R121). -/
theorem trigger_cases_of_commit {i : Instr} {s u : State} {c : Chan} (h : exec i s = commit s (trigger c u)) :
    let k := chan u c
    (k.ctrl.en = false → exec i s = .next u) ∧
    (k.ctrl.en = true → k.busy = true → Faults i s (.triggerBusy c)) ∧
    (k.ctrl.en = true → k.busy = false → k.transCount = 0 → Faults i s (.zeroCount c)) ∧
    (k.ctrl.en = true → k.busy = false → k.transCount ≠ 0 → ¬ CtrlLegal k.ctrl → Faults i s (.badCtrl c)) ∧
    (k.ctrl.en = true → k.busy = false → k.transCount ≠ 0 → CtrlLegal k.ctrl →
      exec i s = .next (setChan c { k with remain := k.transCount, busy := true } u)) :=
  ⟨fun he => next_of_commit h (trigger_disabled he), fun he hb => faults_of_commit h (trigger_busy he hb),
    fun he hb hn => faults_of_commit h (trigger_zeroCount he hb hn),
    fun he hb hn hl => faults_of_commit h (trigger_illegal he hb hn hl),
    fun he hb hn hl => next_of_commit h (trigger_starts he hb hn hl)⟩

/-- With nothing recorded, DMA.TRIGGER ends as the trigger does. -/
theorem exec_dmaTrigger {s : State} (hc : Clean s) (c : Chan) : exec (.dmaTrigger c) s = commit s (trigger c s) := by
  simp [exec, execDmaTrigger, hc.halted_eq]

/-- Settles O37: the operation ends with the trigger. -/
theorem triggerStartsRun : Obligations.TriggerStartsRun :=
  ⟨termCodes.1 _ _ (by simp), termCodes.1 _ _ (by simp), fun _ c hc => trigger_cases_of_commit (exec_dmaTrigger hc c)⟩

/-! ### Aborts (R126, R176) -/

/-- With nothing recorded, DMA.ABORT aborts its channel. -/
theorem exec_dmaAbort {s : State} (hc : Clean s) (c : Chan) : exec (.dmaAbort c) s = .next (abort c s) := by
  simp [exec, execDmaAbort, hc.halted_eq]

/-- With nothing recorded, a write to CHAN_ABORT ends as its register write does. -/
theorem exec_wrChanAbort {s : State} (hc : Clean s) (v : Word) : exec (.wrChanAbort v) s = commit s (writeChanAbort v s) :=
  exec_writeInstr hc.halted_eq .chanAbort v

theorem writeChanAbort_reserved {v : Word} (s : State) (hv : v &&& chanAbortReserved ≠ 0) :
    writeChanAbort v s = .error (.reserved 0x180 v) := if_neg hv

/-- A write to CHAN_ABORT with no reserved bit aborts each channel whose bit is set. -/
theorem writeChanAbort_legal {v : Word} (s : State) (hv : v &&& chanAbortReserved = 0) : writeChanAbort v s = .ok { s with
    ch0 := if v.getLsbD 0 then chan (abort .ch0 s) .ch0 else s.ch0
    ch1 := if v.getLsbD 1 then chan (abort .ch1 s) .ch1 else s.ch1 } := by
  rw [writeChanAbort, checkReserved, if_pos hv]
  cases v.getLsbD 0 <;> cases v.getLsbD 1 <;> rfl

/-- Settles O38: the operation is the abort of its channel, the register write the aborts its bits select. -/
theorem abortStopsChannels : Obligations.AbortStopsChannels := by
  refine ⟨termCodes.1 _ _ (by simp), termCodes.1 _ _ (by simp), fun s hc =>
    ⟨exec_dmaAbort hc .ch0, exec_dmaAbort hc .ch1, fun v => ⟨fun hv => ?_, fun hv => ?_⟩⟩⟩
  · exact faults_of_commit (exec_wrChanAbort hc v) (writeChanAbort_reserved s hv)
  · exact next_of_commit (exec_wrChanAbort hc v) (writeChanAbort_legal s hv)

/-! ### Completions (R122) -/

section
variable {c : Chan} {s : State}

theorem complete_chainSelf (h : (chan s c).ctrl.chainTo.toNat = c.toNat) :
    complete c s = .ok (setChan c { chan s c with busy := false } s) := if_pos h

theorem complete_chainOther (h : (chan s c).ctrl.chainTo.toNat = c.other.toNat) :
    complete c s = trigger c.other (setChan c { chan s c with busy := false } s) := by
  simp only [complete, h]
  cases c <;> rfl

/-- A CHAIN_TO that names no channel (log entry 9). -/
theorem complete_chainNone (h : 1 < (chan s c).ctrl.chainTo.toNat) : complete c s = .error (.badCtrl c) := by
  have hne : (chan s c).ctrl.chainTo.toNat ≠ c.toNat := by cases c <;> simp only [Chan.toNat] <;> omega
  obtain ⟨n, hn⟩ := Nat.exists_eq_add_of_le' h
  rw [hn] at hne
  simp only [complete, hn, if_neg hne, Chan.ofNat?]

end

end Sys2Proof.Machine
end

section
/-! One transfer of a DMA channel (R119, R120, R122, R190): how it ends, from the bus read and the bus write it makes. -/

namespace Sys2Proof.Machine

/-! ### How a transfer ends (R119) -/

/-- Channel c with the addresses moved on from the ones a transfer used, and one word less to transfer (R119, R120). -/
def movedOn (c : Chan) (ra wa : Word) (u : State) : State := setChan c { chan u c with
  readAddr := advance (chan u c).ctrl.incrRead ra
  writeAddr := advance (chan u c).ctrl.incrWrite wa
  remain := (chan u c).remain - 1 } u

section
variable {c : Chan} {ra wa : Word} {u : State}

theorem finishXfer_aborted (hb : (chan u c).busy = false) : finishXfer c ra wa u = .ok u := if_pos hb

theorem finishXfer_more (hb : (chan u c).busy = true) (hr : (chan u c).remain ≠ 1) :
    finishXfer c ra wa u = .ok (movedOn c ra wa u) := by
  simp only [finishXfer, hb, sub_eq_zero, hr, Bool.true_eq_false, if_false, movedOn]

theorem finishXfer_last (hb : (chan u c).busy = true) (hr : (chan u c).remain = 1) :
    finishXfer c ra wa u = complete c (movedOn c ra wa u) := by
  simp only [finishXfer, hb, sub_eq_zero, hr, Bool.true_eq_false, if_true, if_false, movedOn]

/-- The addresses a channel holds before it moves on do not show in it after. -/
theorem movedOn_setChan_addrs (a b : Word) :
    movedOn c ra wa (setChan c { chan u c with readAddr := a, writeAddr := b } u) = movedOn c ra wa u := by
  simp [movedOn]

end

section
variable {s u : State} {c : Chan} {v : Word}

theorem xfer_of_busRead_error {f : FaultRec} (h : busRead s (chan s c).readAddr = .error f) : xfer c s = .error f := by
  simp only [xfer, h]

theorem xfer_of_busWrite_error {f : FaultRec} (hr : busRead s (chan s c).readAddr = .ok v)
    (h : busWrite s (chan s c).writeAddr v = .error f) : xfer c s = .error f := by
  simp only [xfer, hr, h]

theorem xfer_of_busWrite_ok (hr : busRead s (chan s c).readAddr = .ok v) (hw : busWrite s (chan s c).writeAddr v = .ok u) :
    xfer c s = finishXfer c (chan s c).readAddr (chan s c).writeAddr u := by
  simp only [xfer, hr, hw]

end

/-! ### Transfers from and to a memory word or a register (R119, R120) -/

/-- A write at a register's address is the register's write (R58). -/
theorem busWrite_of_isRegAddr {s : State} {a v : Word} {r : Reg} (h : IsRegAddr s.cfg a r) : busWrite s a v = writeReg v s r := by
  obtain ⟨h1, h2, h3⟩ := window_address h.1 h.2
  exact busWrite_register h1 h2 h3

theorem busRead_of_isMemAddr {s : State} {a : Word} (h : IsMemAddr s.cfg a) : busRead s a = .ok (memRead s.mem a.toNat) := by
  obtain ⟨h1, h2, h3⟩ := isMemAddr_iff.1 h
  exact busRead_memory h1 h2 h3

theorem busWrite_of_isMemAddr {s : State} {a v : Word} (h : IsMemAddr s.cfg a) :
    busWrite s a v = .ok { s with mem := memWrite s.mem a.toNat v } := by
  obtain ⟨h1, h2, h3⟩ := isMemAddr_iff.1 h
  exact busWrite_memory h1 h2 h3

/-- A push below the capacity appends the word (R34). -/
theorem pushFifo_of_room {s : State} (h : s.cgen.fifo.length < s.cfg.F) (v : Word) :
    pushFifo v s = .ok { s with cgen := { s.cgen with fifo := s.cgen.fifo ++ [v] } } := if_pos h

/-- A write to the FIFO port with room in the FIFO appends the word (R168). -/
theorem busWrite_fifoPort {s : State} {a : Word} (h : IsRegAddr s.cfg a .cgenTxf) (hf : s.cgen.fifo.length < s.cfg.F) (v : Word) :
    busWrite s a v = .ok { s with cgen := { s.cgen with fifo := s.cgen.fifo ++ [v] } } :=
  (busWrite_of_isRegAddr h).trans (pushFifo_of_room hf v)

/-- A bus write that does not fault records nothing. -/
theorem busWrite_clean {s t : State} {a v : Word} (h : busWrite s a v = .ok t) (hc : Clean s) : Clean t := by
  obtain ⟨-, ⟨r, -, -, hw⟩ | ⟨-, -, rfl⟩⟩ := busWrite_ok h
  · have hs := sameFrame_writeReg hw
    exact ⟨hs.faultRec.trans hc.1, hs.refusedRec.trans hc.2⟩
  · exact hc

@[simp] theorem chan_withMem (s : State) (m : List Host.Cell) (c : Chan) : chan { s with mem := m } c = chan s c := by
  cases c <;> rfl

@[simp] theorem chan_withCgen (s : State) (g : CGen) (c : Chan) : chan { s with cgen := g } c = chan s c := by
  cases c <;> rfl

/-- A write to CHAN_ABORT with channel c's bit set leaves the channel idle (R176). -/
theorem busy_of_writeChanAbort {s u : State} {v : Word} {c : Chan} (h : writeChanAbort v s = .ok u)
    (hb : v.getLsbD c.toNat = true) : (chan u c).busy = false := by
  rw [writeChanAbort_legal s (checkReserved_ok h).1] at h
  cases h
  cases c <;> exact congrArg Channel.busy (if_pos hb)

section
variable {s u : State} {c : Chan} {v : Word} (hc : Clean s) (ht : TransferCondition c s)
include hc ht

theorem exec_dmaXfer_of_busWrite (hr : busRead s (chan s c).readAddr = .ok v) (hw : busWrite s (chan s c).writeAddr v = .ok u) :
    exec (.dmaXfer c) s = commit s (finishXfer c (chan s c).readAddr (chan s c).writeAddr u) := by
  rw [exec_dmaXfer hc ht, xfer_of_busWrite_ok hr hw]

/-- A transfer whose write leaves more to transfer moves its channel on. -/
theorem exec_dmaXfer_more (hr : busRead s (chan s c).readAddr = .ok v) (hw : busWrite s (chan s c).writeAddr v = .ok u)
    (hb : (chan u c).busy = true) (hn : (chan u c).remain ≠ 1) :
    exec (.dmaXfer c) s = .next (movedOn c (chan s c).readAddr (chan s c).writeAddr u) :=
  next_of_commit (exec_dmaXfer_of_busWrite hc ht hr hw) (finishXfer_more hb hn)

/-- A transfer whose own write aborted its channel ends with the write. -/
theorem exec_dmaXfer_aborted (hr : busRead s (chan s c).readAddr = .ok v) (hw : busWrite s (chan s c).writeAddr v = .ok u)
    (hb : (chan u c).busy = false) : exec (.dmaXfer c) s = .next u :=
  next_of_commit (exec_dmaXfer_of_busWrite hc ht hr hw) (finishXfer_aborted hb)

/-- A transfer to an address of its own channel is as if it had written nothing. -/
theorem exec_dmaXfer_ownAddr (hr : busRead s (chan s c).readAddr = .ok v) (hn : (chan s c).remain ≠ 1)
    (ha : IsRegAddr s.cfg (chan s c).writeAddr (.chReadAddr c) ∨ IsRegAddr s.cfg (chan s c).writeAddr (.chWriteAddr c)) :
    exec (.dmaXfer c) s = .next (movedOn c (chan s c).readAddr (chan s c).writeAddr s) := by
  have own : ∀ {a b}, busWrite s (chan s c).writeAddr v = .ok (setChan c { chan s c with readAddr := a, writeAddr := b } s) →
      exec (.dmaXfer c) s = .next (movedOn c (chan s c).readAddr (chan s c).writeAddr s) := fun hw => by
    rw [exec_dmaXfer_more hc ht hr hw (by simpa using ht.1) (by simpa using hn), movedOn_setChan_addrs]
  rcases ha with ha | ha
  · exact own (busWrite_of_isRegAddr ha)
  · exact own (busWrite_of_isRegAddr ha)

/-- A transfer to CHAN_ABORT that aborts its own channel is the register write (R176). -/
theorem exec_dmaXfer_chanAbort (hr : busRead s (chan s c).readAddr = .ok v) (ha : IsRegAddr s.cfg (chan s c).writeAddr .chanAbort)
    (hv : v &&& chanAbortReserved = 0) (hb : v.getLsbD c.toNat = true) : exec (.dmaXfer c) s = exec (.wrChanAbort v) s := by
  have hw := writeChanAbort_legal s hv
  rw [next_of_commit (exec_wrChanAbort hc v) hw]
  exact exec_dmaXfer_aborted hc ht hr ((busWrite_of_isRegAddr ha).trans hw) (busy_of_writeChanAbort hw hb)

end

/-- Settles O33: the write of a memory word and the push into the FIFO are two of the writes the last clause speaks of. -/
theorem transferMovesOneWord : Obligations.TransferMovesOneWord := by
  intro s c hc ht ra wa moved
  refine ⟨fun hn hra => ⟨fun hwa => ?_, fun hwa hf => ?_⟩, fun v hv => ?_⟩
  · exact exec_dmaXfer_more hc ht (busRead_of_isMemAddr hra) (busWrite_of_isMemAddr hwa) (by simpa using ht.1) (by simpa using hn)
  · exact exec_dmaXfer_more hc ht (busRead_of_isMemAddr hra) (busWrite_fifoPort hwa hf _) (by simpa using ht.1) (by simpa using hn)
  · have hr := hv.busRead hc
    refine ⟨exec_dmaXfer_ownAddr hc ht hr, exec_dmaXfer_chanAbort hc ht hr, fun u hw hu => ⟨?_, ?_⟩⟩
    · exact exec_dmaXfer_aborted hc ht hr (hw.busWrite_ok hc hu)
    · exact exec_dmaXfer_more hc ht hr (hw.busWrite_ok hc hu)

/-! ### The last transfer of a run (R122, R123) -/

/-- Channel c with the addresses moved on and its run ended. -/
def runDone (c : Chan) (ra wa : Word) (u : State) : State := setChan c { chan u c with
  readAddr := advance (chan u c).ctrl.incrRead ra
  writeAddr := advance (chan u c).ctrl.incrWrite wa
  remain := 0
  busy := false } u

theorem chan_runDone_other (c : Chan) (ra wa : Word) (u : State) : chan (runDone c ra wa u) c.other = chan u c.other :=
  chan_setChan_other _ _ _

@[simp] theorem chan_movedOn_ctrl (c : Chan) (ra wa : Word) (u : State) : (chan (movedOn c ra wa u) c).ctrl = (chan u c).ctrl := by
  simp [movedOn]

/-- Clearing BUSY after the last word ends the run. -/
theorem runDone_of_movedOn {c : Chan} {ra wa : Word} {u : State} (hr : (chan u c).remain = 1) :
    setChan c { chan (movedOn c ra wa u) c with busy := false } (movedOn c ra wa u) = runDone c ra wa u := by
  simp [movedOn, runDone, hr]

section
variable {c : Chan} {ra wa : Word} {u : State} (hb : (chan u c).busy = true) (hr : (chan u c).remain = 1)
include hb hr

theorem finishXfer_last_chainSelf (h : (chan u c).ctrl.chainTo.toNat = c.toNat) :
    finishXfer c ra wa u = .ok (runDone c ra wa u) := by
  rw [finishXfer_last hb hr, complete_chainSelf (by simpa using h), runDone_of_movedOn hr]

theorem finishXfer_last_chainOther (h : (chan u c).ctrl.chainTo.toNat = c.other.toNat) :
    finishXfer c ra wa u = trigger c.other (runDone c ra wa u) := by
  rw [finishXfer_last hb hr, complete_chainOther (by simpa using h), runDone_of_movedOn hr]

theorem finishXfer_last_chainNone (h : 1 < (chan u c).ctrl.chainTo.toNat) : finishXfer c ra wa u = .error (.badCtrl c) := by
  rw [finishXfer_last hb hr, complete_chainNone (by simpa using h)]

end

/-- Settles O34: the run ends, and CHAIN_TO says which trigger, if any, is taken in the state it leaves. -/
theorem lastTransferChains : Obligations.LastTransferChains := by
  intro s c hc ht ra wa completes
  have last : ∀ {v u}, busRead s ra = .ok v → busWrite s wa v = .ok u → (chan u c).busy = true → (chan u c).remain = 1 →
      completes u := by
    intro v u hread hwrite hb hr
    have hex := exec_dmaXfer_of_busWrite hc ht hread hwrite
    refine ⟨fun hself => ?_, fun hchain => ?_, fun hnone => ?_⟩
    · exact next_of_commit hex (finishXfer_last_chainSelf hb hr hself)
    · rw [finishXfer_last_chainOther hb hr hchain] at hex
      exact chan_runDone_other c ra wa u ▸ trigger_cases_of_commit hex
    · exact faults_of_commit hex (finishXfer_last_chainNone hb hr hnone)
  refine ⟨fun hn hra hwa => ?_, fun hn hra hwa hf => ?_, fun v u hv hw hu => ?_⟩
  · exact last (busRead_of_isMemAddr hra) (busWrite_of_isMemAddr hwa) (by simpa using ht.1) (by simpa using hn)
  · exact last (busRead_of_isMemAddr hra) (busWrite_fifoPort hwa hf _) (by simpa using ht.1) (by simpa using hn)
  · exact last (hv.busRead hc) (hw.busWrite_ok hc hu)

/-! ### The faults of a transfer (R119, R190) -/

section
variable {s : State} {c : Chan} {v : Word} {f : FaultRec} (hc : Clean s) (ht : TransferCondition c s)
include hc ht

theorem faults_dmaXfer_of_busRead (h : busRead s (chan s c).readAddr = .error f) : Faults (.dmaXfer c) s f :=
  faults_of_commit (exec_dmaXfer hc ht) (xfer_of_busRead_error h)

theorem faults_dmaXfer_of_busWrite (hr : busRead s (chan s c).readAddr = .ok v)
    (h : busWrite s (chan s c).writeAddr v = .error f) : Faults (.dmaXfer c) s f :=
  faults_of_commit (exec_dmaXfer hc ht) (xfer_of_busWrite_error hr h)

end

/-- A push into a full FIFO overflows (R34). -/
theorem pushFifo_full {s : State} (h : s.cgen.fifo.length = s.cfg.F) (v : Word) : pushFifo v s = .error (.fifoOverflow v) :=
  if_neg h.not_lt

/-- Settles O35: the fault of the bus read, and with a word read that of the bus write, each by the bus's own tests. -/
theorem transferFaults : Obligations.TransferFaults := by
  intro s c hc ht ra wa unmapped
  have read : ∀ {f}, busRead s ra = .error f → Faults (.dmaXfer c) s f := faults_dmaXfer_of_busRead hc ht
  refine ⟨fun h4 => read (busRead_misaligned h4), fun h => read (busRead_unmapped h),
    fun h => read (busRead_of_isRegAddr h), fun h => read (busRead_of_isRegAddr h), fun v hv => ?_⟩
  have write : ∀ {f}, busWrite s wa v = .error f → Faults (.dmaXfer c) s f := faults_dmaXfer_of_busWrite hc ht (hv.busRead hc)
  refine ⟨fun h4 => write (busWrite_misaligned h4), fun h => write (busWrite_unmapped h), fun h => write (busWrite_of_isRegAddr h),
    fun d h => write (busWrite_of_isRegAddr h), fun h hf => write ((busWrite_of_isRegAddr h).trans (pushFifo_full hf v)),
    fun u hw hu => ?_⟩
  obtain hok | ⟨f, hf, rfl⟩ := commit_next.1 (hw.busWrite hc)
  · exact absurd (busWrite_clean hok hc) hu
  · exact write hf

end Sys2Proof.Machine
end

section
/-! The DMA loop's transfers (R128 to R132): the one that re-arms the data channel, and those that stream the framebuffer. -/

namespace Sys2Proof.Machine

/-! ### The configured channels (R128, R129) -/

/-- The data channel streams words at rising addresses, paced by the FIFO, and chains to the control channel (R128). -/
theorem ctrlOfWord_dataCtrl : ctrlOfWord dataCtrl =
    { en := true, highPriority := true, dataSize := 2, incrRead := true, incrWrite := false, chainTo := 1, treqSel := 2 } := by
  decide

/-- The control channel moves one word, unpaced, and chains to itself (R129). -/
theorem ctrlOfWord_controlCtrl : ctrlOfWord controlCtrl =
    { en := true, highPriority := false, dataSize := 2, incrRead := false, incrWrite := false, chainTo := 1, treqSel := 0x3F } := by
  decide

/-- A trigger of the idle, configured data channel starts a pass of N words (R121). -/
theorem trigger_dataConfigured {s : State} (c : CfgFacts s.cfg) (hd : DataConfigured s) (hb : s.ch0.busy = false) :
    trigger .ch0 s = .ok { s with ch0 := { s.ch0 with remain := BitVec.ofNat 32 s.cfg.N, busy := true } } := by
  obtain ⟨-, hcount, hctrl⟩ := hd
  have hn : s.ch0.transCount ≠ 0 := hcount ▸ ofNat_ne_zero c.n
  rw [trigger_starts (c := .ch0) (by simp [hctrl, ctrlOfWord_dataCtrl]) hb hn (by simp [hctrl, ctrlOfWord_dataCtrl, CtrlLegal]),
    ← hcount]
  rfl

/-- A trigger of the idle, configured control channel arms it (R121). -/
theorem trigger_controlConfigured {s : State} (hk : ControlConfigured s) (hb : s.ch1.busy = false) :
    trigger .ch1 s = .ok { s with ch1 := { s.ch1 with remain := 1, busy := true } } := by
  obtain ⟨-, -, hcount, hctrl⟩ := hk
  rw [trigger_starts (c := .ch1) (by simp [hctrl, ctrlOfWord_controlCtrl]) hb (by simp [hcount])
    (by simp [hctrl, ctrlOfWord_controlCtrl, CtrlLegal]), ← hcount]
  rfl

/-! ### Arming: the control channel's transfer (R129, R130) -/

/-- The loop once the control channel has re-armed the data channel. -/
def rearmed (s : State) : State := { s with
  ch0 := { s.ch0 with readAddr := memRead s.mem s.cfg.BASEPTR_ADDR, remain := BitVec.ofNat 32 s.cfg.N, busy := true }
  ch1 := { s.ch1 with remain := 0, busy := false } }

/-- The control channel's one transfer, from Arming: the base pointer goes to CH0_READ_ADDR_TRIG. -/
theorem xfer_arming {s : State} (c : CfgFacts s.cfg) (hd : DataConfigured s) (hk : ControlConfigured s) (ha : Arming s) :
    xfer .ch1 s = .ok (rearmed s) := by
  obtain ⟨hra, hwa, -, hctrl⟩ := hk
  obtain ⟨hbusy, hremain, hidle, -⟩ := ha
  have hread : busRead s s.ch1.readAddr = .ok (memRead s.mem s.cfg.BASEPTR_ADDR) := hra ▸ busRead_basePtr c
  have hwrite := hwa ▸ (busWrite_regAddr c rfl (.chReadAddrTrig .ch0) (memRead s.mem s.cfg.BASEPTR_ADDR)).trans
    (trigger_dataConfigured (s := setChan .ch0 { s.ch0 with readAddr := _ } s) c hd hidle)
  rw [xfer_of_busWrite_ok (c := .ch1) hread hwrite, finishXfer_last_chainSelf]
  · simp [runDone, rearmed, advance, setChan, hctrl, ctrlOfWord_controlCtrl]
  · exact hbusy
  · exact hremain
  · simp [hctrl, ctrlOfWord_controlCtrl, Chan.toNat]

/-- Settles O36: in Arming the control channel is ready, and its transfer is the write that re-arms the data channel. -/
theorem controlTransferRearms : Obligations.ControlTransferRearms := by
  intro s hc hcfg hd hk ha
  have ht : TransferCondition .ch1 s := by
    obtain ⟨-, -, -, hctrl⟩ := hk
    obtain ⟨hbusy, hremain, -, -⟩ := ha
    simp [TransferCondition, hbusy, hremain, hctrl, ctrlOfWord_controlCtrl]
  exact next_of_commit (exec_dmaXfer hc ht) (xfer_arming (cfgFacts hcfg) hd hk ha)

/-! ### Streaming: the data channel's transfers (R131, R132) -/

/-- The loop once the data channel has pushed its next word: after the pass's last the control channel is armed. -/
def streamed (s : State) : State := { s with
  cgen := { s.cgen with fifo := s.cgen.fifo ++ [fbWord s (s.cfg.N - s.ch0.remain.toNat)] }
  ch0 := { s.ch0 with
    readAddr := s.ch0.readAddr + 4
    remain := s.ch0.remain - 1
    busy := decide (s.ch0.remain ≠ 1) }
  ch1 := if s.ch0.remain = 1 then { s.ch1 with remain := 1, busy := true } else s.ch1 }

/-- A transfer of the data channel, from Streaming with room in the FIFO. -/
theorem xfer_streaming {s : State} (h : LoopInv s) (hs : Streaming s) (hroom : s.cgen.fifo.length < s.cfg.F) :
    xfer .ch0 s = .ok (streamed s) := by
  have c := cfgFacts h.cfg
  obtain ⟨hwa, -, hctrl⟩ := h.data
  obtain ⟨hbusy, hidle, -, hpos, hle, hra⟩ := hs
  have hread : busRead s s.ch0.readAddr = .ok (fbWord s (s.cfg.N - s.ch0.remain.toNat)) := hra ▸ busRead_fbAddr c (by omega)
  have hwrite := hwa ▸ (busWrite_regAddr c rfl .cgenTxf (fbWord s (s.cfg.N - s.ch0.remain.toNat))).trans (pushFifo_of_room hroom _)
  rw [xfer_of_busWrite_ok (c := .ch0) hread hwrite]
  by_cases hlast : s.ch0.remain = 1#32
  · rw [finishXfer_last_chainOther]
    · change trigger .ch1 _ = _
      rw [trigger_controlConfigured]
      · simp [runDone, streamed, advance, setChan, hctrl, ctrlOfWord_dataCtrl, hlast]
      · exact h.control
      · exact hidle
    · exact hbusy
    · exact hlast
    · simp [hctrl, ctrlOfWord_dataCtrl, Chan.toNat, Chan.other]
  · rw [finishXfer_more]
    · simp [movedOn, streamed, advance, setChan, hctrl, ctrlOfWord_dataCtrl, hlast, hbusy]
    · exact hbusy
    · exact hlast

/-- The data channel is ready, in Streaming, exactly where the FIFO has room (R117, R118). -/
theorem xferReady_streaming {s : State} (hd : DataConfigured s) (hs : Streaming s) :
    xferReady .ch0 s = true ↔ s.cgen.fifo.length < s.cfg.F := by
  obtain ⟨-, -, hctrl⟩ := hd
  obtain ⟨hbusy, -, -, hpos, -⟩ := hs
  have hr : s.ch0.remain ≠ 0#32 := fun h0 => by simp [h0] at hpos
  rw [xferReady_iff (.inl (by simp [hctrl, ctrlOfWord_dataCtrl]))]
  simp [TransferCondition, hbusy, hr, hctrl, ctrlOfWord_dataCtrl]

/-- The address of the next framebuffer word (R67). -/
theorem fbAddr_succ (p : Params) (k : Nat) : fbAddr p (k + 1) = fbAddr p k + 4 := by
  rw [fbAddr, fbAddr, Nat.mul_succ, ← Nat.add_assoc, BitVec.ofNat_add]
  rfl

/-- A count down by no more than it is. -/
theorem toNat_sub_ofNat {w : Word} {k : Nat} (h : k ≤ w.toNat) : (w - BitVec.ofNat 32 k).toNat = w.toNat - k := by
  bv_omega

/-- Before the pass's last word, a transfer leaves the control channel alone. -/
theorem streamed_ch1_of_more {s : State} (hmore : s.ch0.remain ≠ 1) : (streamed s).ch1 = s.ch1 := if_neg hmore

/-- Before the pass's last word, a transfer goes on streaming. -/
theorem Streaming.streamed {s : State} (hs : Streaming s) (hmore : s.ch0.remain ≠ 1) : Streaming (streamed s) := by
  obtain ⟨hbusy, hidle, hzero, hpos, hle, hra⟩ := hs
  have hsub : (s.ch0.remain - 1).toNat = s.ch0.remain.toNat - 1 := toNat_sub_ofNat hpos
  have hne : s.ch0.remain.toNat ≠ 1 := fun h1 => hmore (BitVec.eq_of_toNat_eq h1)
  have hnext : s.cfg.N - (s.ch0.remain.toNat - 1) = s.cfg.N - s.ch0.remain.toNat + 1 := by omega
  have hch1 := streamed_ch1_of_more hmore
  refine ⟨decide_eq_true hmore, by rw [hch1, hidle], by rw [hch1, hzero], ?_, ?_, ?_⟩
  · change 1 ≤ (s.ch0.remain - 1).toNat
    omega
  · change (s.ch0.remain - 1).toNat ≤ s.cfg.N
    omega
  · change s.ch0.readAddr + 4 = fbAddr s.cfg (s.cfg.N - (s.ch0.remain - 1).toNat)
    rw [hsub, hnext, fbAddr_succ, hra]

/-- The pass's last word arms the control channel. -/
theorem arming_streamed {s : State} (hlast : s.ch0.remain = 1) : Arming (streamed s) := by
  simp [Arming, streamed, hlast]

end Sys2Proof.Machine
end

section
/-! The DMA loop under every operation (R130, R134): one that leaves the loop's registers alone keeps it in one of its two states. And a
pass of the framebuffer (R131, R132): the transfers of the data channel from Streaming on. -/

namespace Sys2Proof.Machine

/-! ### The loop invariant under a transfer (R130) -/

/-- A word pushed below the capacity keeps the loop invariant. -/
theorem LoopInv.push {s : State} (h : LoopInv s) (hroom : s.cgen.fifo.length < s.cfg.F) (v : Word) :
    LoopInv { s with cgen := { s.cgen with fifo := s.cgen.fifo ++ [v] } } :=
  { h with fifo := by simpa only [FifoOk, List.length_append, List.length_singleton] using Nat.succ_le_of_lt hroom }

theorem LoopInv.streamed {s : State} (h : LoopInv s) (hs : Streaming s) (hroom : s.cgen.fifo.length < s.cfg.F) :
    LoopInv (streamed s) :=
  { h.push hroom _ with
    control := by
      simp only [ControlConfigured, Machine.streamed]
      split <;> exact h.control
    phase := (Classical.em (s.ch0.remain = 1)).imp arming_streamed hs.streamed }

/-- The re-armed data channel is at framebuffer word 0 with N words to go. -/
theorem LoopInv.rearmed {s : State} (h : LoopInv s) : LoopInv (rearmed s) := by
  have c := cfgFacts h.cfg
  have hN : (BitVec.ofNat 32 s.cfg.N).toNat = s.cfg.N := by rw [BitVec.toNat_ofNat, Nat.mod_eq_of_lt c.n.2]
  refine { h with phase := .inr ⟨rfl, rfl, rfl, ?_, ?_, ?_⟩ }
  · exact c.n.1.trans_eq hN.symm
  · exact hN.le
  · change memRead s.mem s.cfg.BASEPTR_ADDR = fbAddr s.cfg (s.cfg.N - (BitVec.ofNat 32 s.cfg.N).toNat)
    rw [hN, Nat.sub_self]
    exact h.base

/-- A transfer of either channel keeps the loop invariant: in each phase one channel is ready, and its transfer is that of the phase. -/
theorem LoopInv.xfer {s t : State} {c : Chan} (h : LoopInv s) (hr : xferReady c s = true) (ht : xfer c s = .ok t) : LoopInv t := by
  have hbusy : (chan s c).busy = true := by
    simp only [xferReady, Bool.and_eq_true] at hr
    obtain ⟨⟨⟨hbusy, -⟩, -⟩, -⟩ := hr
    exact hbusy
  obtain ha | hs := h.phase
  · have ⟨_, _, hidle, _⟩ := ha
    cases c with
    | ch0 => exact absurd (hidle.symm.trans hbusy) (by simp)
    | ch1 =>
      rw [xfer_arming (cfgFacts h.cfg) h.data h.control ha] at ht
      cases ht
      exact h.rearmed
  · have ⟨_, hidle, _⟩ := hs
    cases c with
    | ch0 =>
      have hroom := (xferReady_streaming h.data hs).1 hr
      rw [xfer_streaming h hs hroom] at ht
      cases ht
      exact h.streamed hs hroom
    | ch1 => exact absurd (hidle.symm.trans hbusy) (by simp)

/-! ### The loop invariant under the other operations (R130, R134) -/

/-- An optional update that keeps the loop invariant. -/
theorem LoopInv.ite {s t : State} (b : Bool) (h : LoopInv s) (k : LoopInv t) : LoopInv (if b then t else s) := by
  cases b
  · exact h
  · exact k

theorem LoopInv.withPending {s : State} (h : LoopInv s) (l : List Store) : LoopInv (withPending l s) := { h with }

/-- A word written to memory clear of the base-pointer word keeps the loop invariant. -/
theorem LoopInv.memWrite {s : State} (h : LoopInv s) {a : Nat} (ha : s.cfg.BASEPTR_ADDR + 4 ≤ a ∨ a + 4 ≤ s.cfg.BASEPTR_ADDR)
    (v : Word) : LoopInv { s with mem := memWrite s.mem a v } :=
  { h with base := (memRead_memWrite_other s.mem a _ v ha).trans h.base }

theorem LoopInv.hgenCycle {s : State} (h : LoopInv s) (b : Bool) (ph : HPhase) (n : Nat) : LoopInv (hgenCycle b ph n s) := by
  unfold Machine.hgenCycle
  split
  · exact { h with }
  · exact { h with }

theorem LoopInv.vgenEvent {s : State} (h : LoopInv s) (b : Bool) (ph : VPhase) (n : Nat) : LoopInv (vgenEvent b ph n s) := by
  unfold Machine.vgenEvent
  split
  · exact { h with }
  · exact { h with }

/-- The registers a write to which leaves both channels alone (R130). -/
def leavesChannels : Reg → Bool
  | .seqCtrl | .seqFlags | .seqFstat | .cgenTxf | .chTransRemain _ => true
  | .chReadAddr _ | .chWriteAddr _ | .chTransCount _ | .chCtrlTrig _ | .chCtrl _ | .chReadAddrTrig _ | .chanAbort => false

theorem loopSafe_writeInstr (p : Params) (v : Word) (r : Reg) : loopSafe p (writeInstr v r) = leavesChannels r := by
  cases r <;> rfl

theorem loopSafeStore_of_regAt {p : Params} {a : Word} {r : Reg} (hw : inWindow p a = true)
    (hr : regAt (windowOffset p a) = some r) : loopSafeStore p a = leavesChannels r := by
  rw [loopSafeStore, if_pos hw, hr]
  cases r <;> rfl

/-- A store outside the window is safe exactly where it is not to the base-pointer word. -/
theorem loopSafeStore_of_memory {p : Params} {a : Word} (hw : inWindow p a = false) :
    loopSafeStore p a = true ↔ a ≠ BitVec.ofNat 32 p.BASEPTR_ADDR := by
  simp [loopSafeStore, hw]

/-- A register write that leaves the channels alone keeps the loop invariant: at most it empties the FIFO, or fills it up to F. -/
theorem LoopInv.writeReg {s t : State} {r : Reg} {v : Word} (h : LoopInv s) (hr : leavesChannels r = true)
    (ht : writeReg v s r = .ok t) : LoopInv t := by
  cases r with
  | seqCtrl =>
    obtain ⟨-, ht⟩ := checkReserved_ok ht
    cases ht
    have hH := h.ite (v.getLsbD 4) (t := restartH s) { h with }
    have hV := hH.ite (v.getLsbD 5) (t := restartV _) { hH with }
    exact { hV.ite (v.getLsbD 6) (t := restartC _) { hV with fifo := Nat.zero_le _ } with }
  | seqFlags =>
    obtain ⟨-, ht⟩ := checkReserved_ok ht
    cases ht
    exact { h with }
  | cgenTxf =>
    obtain ⟨hroom, rfl⟩ := pushFifo_ok ht
    exact h.push hroom v
  | seqFstat | chTransRemain c => cases ht
  | chReadAddr c | chWriteAddr c | chTransCount c | chCtrlTrig c | chCtrl c | chReadAddrTrig c | chanAbort => cases hr

/-- A store R130 allows keeps the loop invariant: in memory, words are aligned, so one other than the base-pointer word is clear of it. -/
theorem LoopInv.busWrite {s t : State} {a v : Word} (h : LoopInv s) (ha : loopSafeStore s.cfg a = true)
    (ht : busWrite s a v = .ok t) : LoopInv t := by
  obtain ⟨h4, ⟨r, hw, hr, ht⟩ | ⟨hw, -, rfl⟩⟩ := busWrite_ok ht
  · exact h.writeReg ((loopSafeStore_of_regAt hw hr).symm.trans ha) ht
  · have hne : a.toNat ≠ s.cfg.BASEPTR_ADDR := fun he =>
      (loopSafeStore_of_memory hw).1 ha (BitVec.eq_of_toNat_eq (he.trans (basePtr_toNat (cfgFacts h.cfg)).symm))
    have hb := (cfgFacts h.cfg).aligned.2.1
    simp only [aligned, beq_iff_eq] at h4
    exact h.memWrite (by omega) v

/-- While the loop runs, a channel is busy, so START is refused (R177). -/
theorem LoopInv.not_stopped {s : State} (h : LoopInv s) : stopped s = false := by
  obtain ⟨hbusy, -⟩ | ⟨hbusy, -⟩ := h.phase <;> simp [stopped, hbusy]

/-- However an operation R130 allows ends, the loop invariant holds after it. -/
theorem Effect.loopInv {i : Instr} {s t : State} (e : Effect i s t) (h : LoopInv s) (hi : loopSafe s.cfg i = true) : LoopInv t := by
  cases e with
  | fault | refusal | pxXlate | pxMask | pxGet | hostLdw | readReg => exact { h with }
  | vHold | cWait | cStall | pxFillNone => exact h
  | hAp | hSp => exact h.hgenCycle _ _ _
  | hBp =>
    have hA : LoopInv (raiseA s) := { h with }
    split
    · exact hA.hgenCycle _ _ _
    · exact h.hgenCycle _ _ _
  | vVis => exact { h.vgenEvent _ _ _ with }
  | vFp | vSplHigh | vSplBack | vSph | vBp => exact h.vgenEvent _ _ _
  | cTake | cDwell | cBlank => exact { h with }
  | cOut => exact { h with fifo := (loaded_fifo_length s.cgen).trans h.fifo }
  | dmaXfer _ _ _ hr hx => exact h.xfer hr hx
  | dmaTrigger | dmaAbort | sysStop => cases hi
  | pxSet => exact h.withPending _
  | pxFill _ _ _ _ _ hf hb =>
    have c := cfgFacts h.cfg
    obtain ⟨hN, ha⟩ := addr_of_fillStores hf
    rw [ha, busWrite_fbAddr (withPending_cfg _ _) c hN] at hb
    cases hb
    refine (h.withPending _).memWrite ?_ _
    have hapart := c.apart
    change s.cfg.BASEPTR_ADDR + 4 ≤ _ ∨ _ ≤ s.cfg.BASEPTR_ADDR
    omega
  | sysStart _ _ hst => exact absurd (h.not_stopped.symm.trans hst) (by simp)
  | hostStw _ _ _ _ hb => exact h.busWrite hi hb
  | writeReg r v _ _ hw => exact h.writeReg ((loopSafe_writeInstr _ v r).symm.trans hi) hw

/-- Settles O39: by the way the operation ends; the channels change only in their own transfers. -/
theorem loopStaysArmedOrStreaming : Obligations.LoopStaysArmedOrStreaming :=
  fun _ _ _ h hi hex => (exec_effect hex).2.loopInv h hi

/-! ### A pass of the framebuffer (R131, R132) -/

/-- With room in the FIFO, a step of the data channel pushes the next framebuffer word. -/
theorem runAgents_streaming {s : State} (hc : Clean s) (h : LoopInv s) (hs : Streaming s) (hroom : s.cgen.fifo.length < s.cfg.F) :
    runAgents [.dma .ch0] s = some (streamed s) := by
  have hready := (xferReady_streaming h.data hs).2 hroom
  have he : agentEnabled (.dma .ch0) s = true := by simp [agentEnabled_dma, hc.halted_eq, hready]
  apply runAgents_singleton
  rw [agentStep_unitOp he rfl]
  exact next_of_commit (by simp [exec, execDmaXfer, hc.halted_eq, hready]) (xfer_streaming h hs hroom)

/-- The state k transfers into a pass, with the two channels as they are then: the next k framebuffer words are pushed. -/
def inPass (s : State) (k : Nat) (ch0 ch1 : Channel) : State := { s with
  ch0 := ch0
  ch1 := ch1
  cgen := { s.cgen with
    fifo := s.cgen.fifo ++ (List.range k).map (fun m => fbWord s (s.cfg.N - s.ch0.remain.toNat + m)) } }

theorem inPass_zero (s : State) : inPass s 0 s.ch0 s.ch1 = s := by simp [inPass]

theorem inPass_fifo_length (s : State) (k : Nat) (ch0 ch1 : Channel) :
    (inPass s k ch0 ch1).cgen.fifo.length = s.cgen.fifo.length + k := by simp [inPass]

/-- The transfer after k of a pass pushes the pass's next word. -/
theorem streamed_inPass {s : State} {k : Nat} {ch0 ch1 : Channel} (hr : s.cfg.N - ch0.remain.toNat = s.cfg.N - s.ch0.remain.toNat + k) :
    streamed (inPass s k ch0 ch1) =
      inPass s (k + 1) (streamed (inPass s k ch0 ch1)).ch0 (streamed (inPass s k ch0 ch1)).ch1 := by
  simp only [streamed, inPass, List.range_succ, List.map_append, List.map_singleton, ← List.append_assoc, hr]
  rfl

/-- k transfers into a pass: the words pushed, and the phase the loop is then in. -/
theorem runAgents_pass {s : State} (hc : Clean s) (h : LoopInv s) (hs : Streaming s) {k : Nat} (hk : k ≤ s.ch0.remain.toNat)
    (hroom : s.cgen.fifo.length + k ≤ s.cfg.F) : ∃ ch0 ch1,
      runAgents (List.replicate k (.dma .ch0)) s = some (inPass s k ch0 ch1) ∧ LoopInv (inPass s k ch0 ch1) ∧
      (k < s.ch0.remain.toNat → Streaming (inPass s k ch0 ch1) ∧ ch0.remain = s.ch0.remain - BitVec.ofNat 32 k) ∧
      (k = s.ch0.remain.toNat → Arming (inPass s k ch0 ch1)) := by
  have ⟨_, _, _, hpos, hle, _⟩ := hs
  induction k with
  | zero =>
    refine ⟨s.ch0, s.ch1, ?_⟩
    rw [inPass_zero]
    exact ⟨rfl, h, fun _ => ⟨hs, by simp⟩, fun h0 => by omega⟩
  | succ k ih =>
    obtain ⟨ch0, ch1, hrun, hinv, hmore, -⟩ := ih (by omega) (by omega)
    obtain ⟨hst, hremain⟩ := hmore (by omega)
    have hcount : ch0.remain.toNat = s.ch0.remain.toNat - k := by rw [hremain, toNat_sub_ofNat (by omega)]
    have hroom' : (inPass s k ch0 ch1).cgen.fifo.length < s.cfg.F := by rw [inPass_fifo_length]; omega
    have hnext := streamed_inPass (k := k) (ch0 := ch0) (ch1 := ch1) (s := s) (by omega)
    refine ⟨_, _, ?_, hnext ▸ hinv.streamed hst hroom', fun hlt => ⟨?_, ?_⟩, fun hlast => ?_⟩
    · rw [runAgents_replicate_succ, hrun, Option.bind_some, ← hnext]
      exact runAgents_streaming (s := inPass s k ch0 ch1) hc hinv hst hroom'
    · have hne : ch0.remain ≠ 1 := fun h1 => by
        have : ch0.remain.toNat = 1 := congrArg BitVec.toNat h1
        omega
      exact hnext ▸ hst.streamed hne
    · change ch0.remain - 1 = _
      rw [hremain, BitVec.ofNat_add, sub_sub]
      rfl
    · have h1 : ch0.remain = 1 := BitVec.eq_of_toNat_eq (by change ch0.remain.toNat = 1; omega)
      exact hnext ▸ arming_streamed (s := inPass s k ch0 ch1) h1

/-- Settles O40: the run is k transfers into the pass. -/
theorem streamPushesFramebufferInOrder : Obligations.StreamPushesFramebufferInOrder := by
  intro s k hc h hs hk hroom first
  obtain ⟨ch0, ch1, hrun, -, hmore, hlast⟩ := runAgents_pass hc h hs hk hroom
  exact ⟨_, hrun, rfl, hmore, hlast⟩

end Sys2Proof.Machine
end

section
/-! The translation of pixels (R136 to R140): the word a pixel's display position falls on, and that pixels and slots of framebuffer words
correspond one to one. -/

namespace Sys2Proof.Machine

/-! ### Display positions and word indices (R136) -/

/-- The display position of a pixel: the number of the word that shows it, counted from the first of the frame (R137). -/
def displayPos (p : Params) (x y : Nat) : Nat := y * p.WPR + x / 10

/-- The word group of a pixel of the raster is one of its row's. -/
theorem group_lt {p : Params} (c : CfgFacts p) {x : Nat} (hx : x < p.H) : x / 10 < p.WPR := by
  have := c.h_eq
  omega

theorem displayPos_lt {p : Params} (c : CfgFacts p) {x y : Nat} (hx : x < p.H) (hy : y < p.V) : displayPos p x y < p.N :=
  position_lt c hy (group_lt c hx)

/-- A pixel's word is the one before its display position, the slot that of its column in the word group (R137). -/
theorem xlate_displayPos {p : Params} (c : CfgFacts p) {x y : Nat} (hx : x < p.H) (hy : y < p.V) :
    let k := wordIndex p (displayPos p x y)
    xlate p x y = .ok { k := k, p := 3 * (x % 10), addr := fbAddr p k } := by
  rw [wordIndex_eq_mod (displayPos_lt c hx hy)]
  exact xlate_of_lt c hx hy

/-- The translator accepts the pixels of the raster (R136). -/
theorem exists_xlate_ok {p : Params} (c : CfgFacts p) {x y : Nat} (hx : x < p.H) (hy : y < p.V) : ∃ r, xlate p x y = .ok r :=
  ⟨_, xlate_displayPos c hx hy⟩

/-- The translator accepts pixels of the raster only (R136). -/
theorem lt_of_xlate_ok {p : Params} {x y : Nat} {r : Xlated} (h : xlate p x y = .ok r) : x < p.H ∧ y < p.V := by
  unfold xlate at h
  split at h
  · cases h
  · omega

/-- What the translator returns for a pixel it accepts (R137). -/
theorem fields_of_xlate_ok {p : Params} (c : CfgFacts p) {x y : Nat} {r : Xlated} (h : xlate p x y = .ok r) :
    r.k = wordIndex p (displayPos p x y) ∧ r.p = 3 * (x % 10) ∧ r.addr = fbAddr p r.k := by
  obtain ⟨hx, hy⟩ := lt_of_xlate_ok h
  cases (xlate_displayPos c hx hy).symm.trans h
  exact ⟨rfl, rfl, rfl⟩

theorem wordIndex_lt {p : Params} {j : Nat} (hj : j < p.N) : wordIndex p j < p.N := by
  unfold wordIndex
  split <;> omega

/-- Different display positions show different words. -/
theorem wordIndex_injective {p : Params} {i j : Nat} (hi : i < p.N) (hj : j < p.N) (h : wordIndex p i = wordIndex p j) : i = j := by
  unfold wordIndex at h
  split at h <;> split at h <;> omega

/-- Every framebuffer word is shown at some display position. -/
theorem exists_wordIndex_eq {p : Params} {k : Nat} (hk : k < p.N) : ∃ j, j < p.N ∧ wordIndex p j = k := by
  by_cases hlast : k + 1 = p.N
  · exact ⟨0, by omega, by simp [wordIndex, ← hlast]⟩
  · exact ⟨k + 1, by omega, by simp [wordIndex]⟩

/-- A display position determines the row and the word group. -/
theorem row_group_of_displayPos {p : Params} (c : CfgFacts p) {x : Nat} (hx : x < p.H) (y : Nat) :
    displayPos p x y / p.WPR = y ∧ displayPos p x y % p.WPR = x / 10 := by
  have hm := group_lt c hx
  rw [displayPos, Nat.mul_comm, Nat.mul_add_div c.wpr_pos, Nat.mul_add_mod, Nat.div_eq_of_lt hm, Nat.mod_eq_of_lt hm]
  exact ⟨rfl, rfl⟩

/-- The position of a pixel whose row and word group are a position's own is that position. -/
theorem displayPos_of_position (p : Params) (j : Nat) {i : Nat} (hi : i < 10) :
    displayPos p (10 * (j % p.WPR) + i) (j / p.WPR) = j := by
  have hm : (10 * (j % p.WPR) + i) / 10 = j % p.WPR := by omega
  rw [displayPos, hm, Nat.div_add_mod']

/-- Pixels of one slot of one word are the same pixel (R138): the word index determines the display position, and that the row and the
word group; the bit offset is the column's place in the group. -/
theorem xlate_injective {p : Params} (c : CfgFacts p) {x y x' y' : Nat} {r r' : Xlated} (h : xlate p x y = .ok r)
    (h' : xlate p x' y' = .ok r') (hk : r.k = r'.k) (hp : r.p = r'.p) : x = x' ∧ y = y' := by
  obtain ⟨hx, hy⟩ := lt_of_xlate_ok h
  obtain ⟨hx', hy'⟩ := lt_of_xlate_ok h'
  obtain ⟨rk, rp, -⟩ := fields_of_xlate_ok c h
  obtain ⟨rk', rp', -⟩ := fields_of_xlate_ok c h'
  have hpos : displayPos p x y = displayPos p x' y' :=
    wordIndex_injective (displayPos_lt c hx hy) (displayPos_lt c hx' hy') (rk.symm.trans (hk.trans rk'))
  obtain ⟨hrow, hgroup⟩ := row_group_of_displayPos c hx y
  obtain ⟨hrow', hgroup'⟩ := row_group_of_displayPos c hx' y'
  rw [hpos] at hrow hgroup
  exact ⟨by omega, hrow.symm.trans hrow'⟩

/-- Every slot of every framebuffer word is a pixel's (R138): the one whose row and word group are those of the word's display position. -/
theorem exists_xlate_eq {p : Params} (c : CfgFacts p) {k i : Nat} (hk : k < p.N) (hi : i < 10) :
    ∃ x y r, x < p.H ∧ y < p.V ∧ xlate p x y = .ok r ∧ r.k = k ∧ r.p = 3 * i := by
  obtain ⟨j, hj, hjk⟩ := exists_wordIndex_eq hk
  have hH := c.h_eq
  have hcol := Nat.mod_lt j c.wpr_pos
  have hrow : j / p.WPR < p.V := Nat.div_lt_of_lt_mul (by rwa [Nat.mul_comm, ← c.n_eq])
  have hx : 10 * (j % p.WPR) + i < p.H := by omega
  refine ⟨_, _, _, hx, hrow, xlate_displayPos c hx hrow, ?_, ?_⟩
  · rw [displayPos_of_position p j hi, hjk]
  · simp only [Nat.mul_add_mod, Nat.mod_eq_of_lt hi]

/-! ### The translator's statements (R136, R137, R138, R140) -/

/-- Settles O43: the translation in closed form, its bounds and its address. -/
theorem translationClosedForm : Obligations.TranslationClosedForm := by
  intro p x y hcfg hx hy
  have c := cfgFacts hcfg
  have hk := Nat.mod_lt (y * p.WPR + x / 10 + p.N - 1) c.n.1
  exact ⟨_, xlate_of_lt c hx hy, displayPos_lt c hx hy, rfl, hk, rfl, fbAddr_toNat c hk⟩

/-- Settles O44: distinct pixels have distinct slots, and every slot is a pixel's. -/
theorem translationIsBijection : Obligations.TranslationIsBijection := fun _ hcfg =>
  ⟨fun _ _ _ _ _ _ => xlate_injective (cfgFacts hcfg), fun _ _ => exists_xlate_eq (cfgFacts hcfg)⟩

/-- Settles O45: the display position of the pixel below is WPR on, and only position 0 has its word at the end. -/
theorem translationRowStride : Obligations.TranslationRowStride := by
  intro p x y hcfg hx hy
  have c := cfgFacts hcfg
  have hw := c.wpr_pos
  have hbelow : displayPos p x (y + 1) = displayPos p x y + p.WPR := by
    rw [displayPos, displayPos, Nat.succ_mul]
    omega
  refine ⟨_, _, xlate_displayPos c hx (by omega), xlate_displayPos c hx hy, rfl, ?_⟩
  rw [hbelow]
  split
  case isTrue h =>
    have h0 : displayPos p x y = 0 := by
      rw [displayPos, h.1, Nat.zero_mul]
      omega
    simp only [h0, wordIndex]
    exact ⟨rfl, by rw [if_neg (by omega), Nat.zero_add]⟩
  case isFalse h =>
    have h0 : displayPos p x y ≠ 0 := fun h0 => h <| by
      rw [displayPos, Nat.add_eq_zero_iff, Nat.mul_eq_zero] at h0
      omega
    simp only [wordIndex, h0, if_false]
    rw [if_neg (by omega)]
    omega

/-- Outside the raster the translator faults (R136). -/
theorem xlate_outside {p : Params} {x y : Nat} (h : p.H ≤ x ∨ p.V ≤ y) : xlate p x y = .error (.pixelRange x y) := if_pos h

/-- Settles O42: the operation returns what the translator computes. -/
theorem translatePixel : Obligations.TranslatePixel := by
  refine ⟨fun t hop => decode_term_of_find hop rfl rfl, fun s x y hc => ?_⟩
  intro n k
  refine ⟨fun hx hy => ?_, fun hout => ?_⟩
  · have hin : xlate s.cfg x y = .ok { k := k, p := n % 30, addr := fbAddr s.cfg k } := if_neg (by omega)
    simp [exec, execPxXlate, hc.halted_eq, hin, withRet, fbAddr]
  · simp [Faults, exec, execPxXlate, hc.halted_eq, xlate_outside hout, recordFault]

end Sys2Proof.Machine
end

section
/-! The pixel field of a word (R76, R77, R142 to R144): what replacing it and reading it do to the word's bits, and the mask that holds a
colour in every slot. -/

namespace Sys2Proof.Machine

/-! ### Reading and replacing a field (R143, R144) -/

/-- The field mask is the three low bits. -/
theorem getLsbD_fieldMask (i : Nat) : (7 : Word).getLsbD i = decide (i < 3) := by
  rw [show (7 : Word) = BitVec.ofNat 32 (2 ^ 3 - 1) from rfl, BitVec.getLsbD_ofNat, Nat.testBit_two_pow_sub_one]
  by_cases hi : i < 3
  · simp [hi, show i < 32 by omega]
  · simp [hi]

/-- A number below 2^k has no bit from k on. -/
theorem getLsbD_ofNat_of_lt {n k i : Nat} (hn : n < 2 ^ k) (hi : k ≤ i) : (BitVec.ofNat 32 n).getLsbD i = false := by
  have hlt : n < 2 ^ i := Nat.lt_of_lt_of_le hn (Nat.pow_le_pow_right (by decide) hi)
  rw [BitVec.getLsbD_ofNat, Nat.testBit_lt_two_pow hlt, Bool.and_false]

/-- A colour has three bits (R81). -/
theorem getLsbD_color {c : Nat} (hc : c < 8) {i : Nat} (hi : 3 ≤ i) : (BitVec.ofNat 32 c).getLsbD i = false :=
  getLsbD_ofNat_of_lt (k := 3) hc hi

/-- The bits of a word's field (R144). -/
theorem getLsbD_pixelOf (w : Word) (p i : Nat) : (pixelOf w p).getLsbD i = (w.getLsbD (p + i) && decide (i < 3)) := by
  rw [pixelOf, BitVec.getLsbD_and, BitVec.getLsbD_ushiftRight, getLsbD_fieldMask]

/-- The bits of a word with a field replaced: the word's own but for the three of the field, and the colour's moved there (R143). -/
theorem getLsbD_withPixel (w : Word) (p c : Nat) {j : Nat} (hj : j < 32) : (withPixel w p c).getLsbD j =
    ((w.getLsbD j && !(!decide (j < p) && decide (j - p < 3))) || (!decide (j < p) && (BitVec.ofNat 32 c).getLsbD (j - p))) := by
  simp only [withPixel, BitVec.getLsbD_or, BitVec.getLsbD_and, BitVec.getLsbD_not, BitVec.getLsbD_shiftLeft, getLsbD_fieldMask, hj,
    decide_true, Bool.true_and]

/-- Inside the field, the bits of a word with the field replaced are the colour's (R143). -/
theorem getLsbD_withPixel_field (w : Word) {p c i : Nat} (hp : p + 3 ≤ 32) (hi : i < 3) :
    (withPixel w p c).getLsbD (p + i) = (BitVec.ofNat 32 c).getLsbD i := by
  simp [getLsbD_withPixel w p c (show p + i < 32 by omega), hi]

/-- Outside the field, the bits of a word with the field replaced are the word's own (R143, R77). -/
theorem getLsbD_withPixel_other (w : Word) {p c j : Nat} (hc : c < 8) (hj : j < 32) (hout : j < p ∨ p + 3 ≤ j) :
    (withPixel w p c).getLsbD j = w.getLsbD j := by
  rw [getLsbD_withPixel w p c hj]
  rcases hout with h | h
  · simp [h]
  · simp [getLsbD_color hc (show 3 ≤ j - p by omega), show ¬ j - p < 3 by omega]

/-- The field read after it is replaced is the colour. -/
theorem pixelOf_withPixel_same (w : Word) {p c : Nat} (hp : p + 3 ≤ 32) (hc : c < 8) :
    pixelOf (withPixel w p c) p = BitVec.ofNat 32 c := by
  apply BitVec.eq_of_getLsbD_eq
  intro i _
  rw [getLsbD_pixelOf]
  by_cases hi : i < 3
  · simp only [getLsbD_withPixel_field w hp hi, hi, decide_true, Bool.and_true]
  · simp only [getLsbD_color hc (show 3 ≤ i by omega), hi, decide_false, Bool.and_false]

/-- A field read after one apart from it is replaced is as before. -/
theorem pixelOf_withPixel_other (w : Word) {p q c : Nat} (hc : c < 8) (h : q + 3 ≤ p ∨ p + 3 ≤ q) :
    pixelOf (withPixel w p c) q = pixelOf w q := by
  apply BitVec.eq_of_getLsbD_eq
  intro i _
  rw [getLsbD_pixelOf, getLsbD_pixelOf]
  by_cases hi : i < 3
  · by_cases hj : q + i < 32
    · rw [getLsbD_withPixel_other w hc hj (by omega)]
    · rw [BitVec.getLsbD_of_ge _ _ (by omega), BitVec.getLsbD_of_ge _ _ (by omega)]
  · simp only [hi, decide_false, Bool.and_false]

/-- Replacing a field twice by the same colour is replacing it once. -/
theorem withPixel_withPixel (w : Word) {p c : Nat} (hp : p + 3 ≤ 32) (hc : c < 8) :
    withPixel (withPixel w p c) p c = withPixel w p c := by
  apply BitVec.eq_of_getLsbD_eq
  intro j hj32
  by_cases hj : p ≤ j ∧ j < p + 3
  · obtain ⟨i, rfl⟩ := Nat.exists_eq_add_of_le hj.1
    rw [getLsbD_withPixel_field _ hp (by omega), getLsbD_withPixel_field _ hp (by omega)]
  · rw [getLsbD_withPixel_other _ hc hj32 (by omega)]

/-! ### The tiling mask (R81, R142) -/

theorem toNat_tilingMask {c : Nat} (hc : c < 8) : (tilingMask c).toNat = c * 0x09249249 := by
  rw [tilingMask, BitVec.toNat_ofNat]
  omega

/-- The mask of each of the eight colours holds it in each of the ten slots. -/
theorem slotOf_tilingMask : ∀ c < 8, ∀ i < 10, (slotOf (tilingMask c) i).toNat = c := by decide

/-- The mask's two top bits are 0, as R77 asks of a framebuffer word. -/
theorem tilingMask_top {c : Nat} (hc : c < 8) {j : Nat} (hj : 30 ≤ j) : (tilingMask c).getLsbD j = false :=
  getLsbD_ofNat_of_lt (k := 30) (by omega) hj

/-- A pixel's field of the mask is the colour. -/
theorem pixelOf_tilingMask {c i : Nat} (hc : c < 8) (hi : i < 10) : pixelOf (tilingMask c) (3 * i) = BitVec.ofNat 32 c := by
  apply BitVec.eq_of_toNat_eq
  rw [← setWidth_slotOf, BitVec.toNat_setWidth, slotOf_tilingMask c hc i hi, BitVec.toNat_ofNat]

/-- Settles O46: the ten slots are the colour's, for each of the eight colours. -/
theorem tilingMask_operation : Obligations.TilingMask := by
  refine ⟨fun t hop => decode_term_of_find hop rfl rfl, fun s c hc => ⟨fun hlt => ?_, fun hge => ?_⟩⟩
  · refine ⟨tilingMask c, ?_, toNat_tilingMask hlt, slotOf_tilingMask c hlt, tilingMask_top hlt (by decide),
      tilingMask_top hlt (by decide)⟩
    simp [Returns, exec, execPxMask, hc.halted_eq, Nat.not_le.2 hlt, withRet]
  · simp [Refuses, exec, execPxMask, hc.halted_eq, hge, refuse, recordRefusal]

end Sys2Proof.Machine
end

section
/-! Writes of the same memory word (R60), and of a row of words with one value. -/

namespace Sys2Proof.Machine

/-! ### A second write of a word -/

/-- A second write of a byte replaces the first. -/
theorem memSet_memSet_same (m : List Host.Cell) (a : Nat) (v w : Byte) : memSet (memSet m a v) a w = memSet m a w := by
  induction m with
  | nil => simp [memSet]
  | cons d m ih =>
    obtain ⟨b, u⟩ := d
    rcases Nat.lt_trichotomy a b with h | rfl | h
    · simp [memSet, h]
    · simp [memSet]
    · simp [memSet, h.not_gt, h.ne', ih]

/-- Writes of different bytes, in either order, leave the same memory. -/
theorem memSet_memSet_comm (m : List Host.Cell) {a b : Nat} (hab : a < b) (v w : Byte) :
    memSet (memSet m b w) a v = memSet (memSet m a v) b w := by
  induction m with
  | nil => simp [memSet, hab, hab.not_gt, hab.ne']
  | cons d m ih =>
    obtain ⟨e, u⟩ := d
    rcases Nat.lt_trichotomy a e with h | rfl | h
    · rcases Nat.lt_trichotomy b e with h' | rfl | h'
      · simp [memSet, h, h', hab, hab.not_gt, hab.ne']
      · simp [memSet, hab, hab.not_gt, hab.ne']
      · simp [memSet, h, h'.not_gt, h'.ne', hab.not_gt, hab.ne']
    · simp [memSet, hab.not_gt, hab.ne']
    · have h' := h.trans hab
      simp [memSet, h.not_gt, h.ne', h'.not_gt, h'.ne', ih]

/-- A second write of a word replaces the first (R60). -/
theorem memWrite_memWrite_same (m : List Host.Cell) (a : Nat) (v w : Word) : memWrite (memWrite m a v) a w = memWrite m a w := by
  unfold memWrite
  simp (disch := omega) only [memSet_memSet_comm, memSet_memSet_same]

/-! ### A row of words -/

/-- Memory after the first n words from an address on are written with one value. -/
def fillWords (m : List Host.Cell) (a : Nat) (v : Word) : Nat → List Host.Cell
  | 0 => m
  | n + 1 => memWrite (fillWords m a v n) (a + 4 * n) v

/-- Every word of the row reads the value. -/
theorem memRead_fillWords (m : List Host.Cell) (a : Nat) (v : Word) {n k : Nat} (hk : k < n) :
    memRead (fillWords m a v n) (a + 4 * k) = v := by
  induction n with
  | zero => omega
  | succ n ih =>
    rcases Nat.lt_succ_iff_lt_or_eq.1 hk with hlt | rfl
    · rw [fillWords, memRead_memWrite_other _ _ _ _ (by omega), ih hlt]
    · exact memRead_memWrite_same _ _ _

/-- Every byte outside the row is as before. -/
theorem readByte_fillWords_other (m : List Host.Cell) (a : Nat) (v : Word) {n b : Nat} (hb : b < a ∨ a + 4 * n ≤ b) :
    readByte (fillWords m a v n) b = readByte m b := by
  induction n with
  | zero => rfl
  | succ n ih => rw [fillWords, readByte_memWrite_other _ _ _ _ (by omega), ih (by omega)]

end Sys2Proof.Machine
end

section
/-! The host's pixel operations (R143 to R149): their refusals and faults, what each leaves in memory and in the NAMEs, and the runs of the
host that make them. -/

namespace Sys2Proof.Machine

/-! ### The NAMEs (R89) -/

/-- A NAME just bound has its value, every other the one before (R89). -/
theorem lookupName_bindName (l : List (Name × Word)) (n m : Name) (v : Word) :
    lookupName (bindName n v l) m = if m = n then some v else lookupName l m := by
  induction l with
  | nil => rfl
  | cons d l ih =>
    obtain ⟨k, u⟩ := d
    by_cases hnk : n = k
    · subst hnk
      by_cases hm : m = n <;> simp [bindName, lookupName, hm]
    · by_cases hm : m = k
      · subst hm
        simp [bindName, lookupName, hnk, Ne.symm hnk]
      · simp [bindName, lookupName, hnk, hm, ih]

/-! ### The word of a pixel -/

/-- The word a pixel is in is a framebuffer word (R137). -/
theorem k_lt_of_xlate_ok {p : Params} (c : CfgFacts p) {x y : Nat} {r : Xlated} (h : xlate p x y = .ok r) : r.k < p.N := by
  obtain ⟨hx, hy⟩ := lt_of_xlate_ok h
  rw [(fields_of_xlate_ok c h).1]
  exact wordIndex_lt (displayPos_lt c hx hy)

/-- A pixel's field is inside its word, below the two top bits (R137, R77). -/
theorem p_le_of_xlate_ok {p : Params} (c : CfgFacts p) {x y : Nat} {r : Xlated} (h : xlate p x y = .ok r) : r.p + 3 ≤ 30 := by
  rw [(fields_of_xlate_ok c h).2.1]
  omega

/-- The fields of two pixels of one word are the same or apart (R137). -/
theorem fields_apart_of_xlate_ok {p : Params} (c : CfgFacts p) {x y x' y' : Nat} {r r' : Xlated} (h : xlate p x y = .ok r)
    (h' : xlate p x' y' = .ok r') (hne : r'.p ≠ r.p) : r'.p + 3 ≤ r.p ∨ r.p + 3 ≤ r'.p := by
  rw [(fields_of_xlate_ok c h).2.1, (fields_of_xlate_ok c h').2.1] at hne ⊢
  omega

/-- The bus reads a pixel's word from memory. -/
theorem busRead_of_xlate_ok {s : State} (c : CfgFacts s.cfg) {x y : Nat} {r : Xlated} (h : xlate s.cfg x y = .ok r) :
    busRead s r.addr = .ok (fbWord s r.k) := by
  rw [(fields_of_xlate_ok c h).2.2]
  exact busRead_fbAddr c (k_lt_of_xlate_ok c h)

/-! ### The pixel operations (R143, R144, R145) -/

section
variable {s : State} (hc : Clean s)
include hc

theorem refuses_pxSet {c : Nat} (h : 8 ≤ c) (x y : Nat) : Refuses (.pxSet x y c) s .color := by
  simp [Refuses, exec, execPxSet, hc.halted_eq, h, refuse, recordRefusal]

theorem refuses_pxFill {c : Nat} (h : 8 ≤ c) : Refuses (.pxFill c) s .color := by
  simp [Refuses, exec, execPxFill, hc.halted_eq, h, refuse, recordRefusal]

theorem faults_pxSet {x y c : Nat} (h : s.cfg.H ≤ x ∨ s.cfg.V ≤ y) (hlt : c < 8) :
    Faults (.pxSet x y c) s (.pixelRange x y) := by
  simp [Faults, exec, execPxSet, hc.halted_eq, Nat.not_le.2 hlt, xlate_outside h, recordFault]

theorem faults_pxGet {x y : Nat} (h : s.cfg.H ≤ x ∨ s.cfg.V ≤ y) (n : Name) : Faults (.pxGet x y n) s (.pixelRange x y) := by
  simp [Faults, exec, execPxGet, hc.halted_eq, xlate_outside h, recordFault]

/-- Inside the raster PX.SET leaves the store of the merged word to come (R143). -/
theorem exec_pxSet (f : CfgFacts s.cfg) {x y c : Nat} {r : Xlated} (h : xlate s.cfg x y = .ok r) (hlt : c < 8) :
    exec (.pxSet x y c) s =
      .next (withPending ({ addr := r.addr, value := withPixel (fbWord s r.k) r.p c } :: s.host.pending) s) := by
  simp [exec, execPxSet, hc.halted_eq, Nat.not_le.2 hlt, h, busRead_of_xlate_ok f h, withPending]

/-- Inside the raster PX.GET binds the pixel's field to the NAME (R144). -/
theorem exec_pxGet (f : CfgFacts s.cfg) {x y : Nat} {r : Xlated} (h : xlate s.cfg x y = .ok r) (n : Name) :
    exec (.pxGet x y n) s = .next (bindResult n (pixelOf (fbWord s r.k) r.p) s) := by
  simp [exec, execPxGet, hc.halted_eq, h, busRead_of_xlate_ok f h]

end

/-- The stores of fill_all from word j on: the one of word j, then those of the words after it (R145). -/
theorem drop_fillStores {p : Params} (c : Nat) {j : Nat} (hj : j < p.N) :
    (fillStores p c).drop j = { addr := fbAddr p j, value := tilingMask c } :: (fillStores p c).drop (j + 1) := by
  have hlen : j < (fillStores p c).length := by simpa [fillStores] using hj
  rw [List.drop_eq_getElem_cons hlen]
  simp [fillStores]

/-- The stores of fill_all after the first (R145). -/
theorem drop_one_fillStores {p : Params} (c : Nat) (hN : 1 ≤ p.N) : (fillStores p c).drop 1 =
    (List.range (p.N - 1)).map fun k => { addr := fbAddr p (k + 1), value := tilingMask c } := by
  obtain ⟨n, hn⟩ := Nat.exists_eq_add_of_le' hN
  simp [fillStores, hn, List.range_succ_eq_map, Function.comp_def]

/-- PX.FILL stores the mask to framebuffer word 0 and leaves the other stores to come (R145). -/
theorem exec_pxFill {s : State} (hc : Clean s) (f : CfgFacts s.cfg) {c : Nat} (hlt : c < 8) : exec (.pxFill c) s = .next { s with
    mem := memWrite s.mem s.cfg.FB_BASE (tilingMask c)
    host := { s.host with pending := (fillStores s.cfg c).drop 1 ++ s.host.pending } } := by
  have hfirst : fillStores s.cfg c = _ := drop_fillStores c f.n.1
  have hw := busWrite_fbAddr (s := withPending ((fillStores s.cfg c).drop 1 ++ s.host.pending) s) rfl f f.n.1 (tilingMask c)
  have hissue : exec (.pxFill c) s = issueStores (fillStores s.cfg c) s := by
    simp [exec, execPxFill, hc.halted_eq, Nat.not_le.2 hlt]
  rw [hissue, hfirst, issueStores_cons]
  exact congrArg (commit s) hw

/-- Settles O47: the refusals, the faults and the first access of each pixel operation. -/
theorem pixelOperationFirstAccess : Obligations.PixelOperationFirstAccess := by
  intro s x y c n hc hcfg
  have f := cfgFacts hcfg
  refine ⟨fun h => ⟨refuses_pxSet hc h x y, refuses_pxFill hc h⟩, fun h => ⟨faults_pxSet hc h, faults_pxGet hc h n⟩,
    fun r _ _ h => ⟨exec_pxSet hc f h, _, exec_pxGet hc f h n, rfl, fun m => lookupName_bindName _ n m _⟩, fun hlt => ?_⟩
  rw [exec_pxFill hc f hlt, drop_one_fillStores c f.n.1]
  rfl

/-! ### Steps of the host (R89, R90) -/

/-- A run on from the state a run reaches. -/
theorem runAgents_append_of {as bs : List Agent} {s t u : State} (h : runAgents as s = some t) (k : runAgents bs t = some u) :
    runAgents (as ++ bs) s = some u := by
  rw [runAgents_append, h, Option.bind_some, k]

/-- The state with the host's lines replaced. -/
def withProg (lines : List Line) (s : State) : State := { s with host := { s.host with prog := lines } }

/-- A program that stands ready performs the operation its first line is assembled to. -/
theorem agentStep_hostTerm {s : State} {l : Line} {ls rest : List Line} {t : Term} {i : Instr} (hr : HostReady s (l :: ls) rest)
    (ha : assemble s.cfg s.host.names l = .ok (.term t)) (hd : decode (.term t) = .ok i) (hi : i.hostIssuable = true) :
    agentStep .host s = exec i (withProg (ls ++ rest) s) := by
  obtain ⟨hc, hp, hl⟩ := hr
  have hissue : agentIssue .host s = some (issueLine l (withProg (ls ++ rest) s)) := by
    simp [agentIssue, hostIssue, hp, hl, withProg]
  rw [agentStep_of_enabled (agentEnabled_host_of_prog hc hl) hissue, issueLine_of_term (s := withProg (ls ++ rest) s) ha hd hi, perform]

/-- A store of an expansion to come is HOST's next operation; to a framebuffer word it writes memory. -/
theorem agentStep_fbStore {s : State} (hc : Clean s) (f : CfgFacts s.cfg) {k : Nat} (hk : k < s.cfg.N) {v : Word} {rest : List Store}
    (hp : s.host.pending = { addr := fbAddr s.cfg k, value := v } :: rest) : agentStep .host s = .next { s with
      mem := memWrite s.mem (s.cfg.FB_BASE + 4 * k) v
      host := { s.host with pending := rest } } := by
  have hissue : agentIssue .host s = some (.run (.hostStw (fbAddr s.cfg k) v 4) (withPending rest s)) := by
    simp [agentIssue, hostIssue, hp, withPending]
  have he : agentEnabled .host s = true := by simp [agentEnabled, hc.halted_eq, hissue]
  have hh : halted (withPending rest s) = false := hc.halted_eq
  rw [agentStep_of_enabled he hissue, perform]
  exact next_of_commit (by simp [exec, execHostStw, hh]) (busWrite_fbAddr (s := withPending rest s) rfl f hk v)

/-! ### A pixel set and read back (R146, R148, R149) -/

/-- The state a set_pixel of the translated pixel leaves, with the lines that come after it. -/
def afterSetPixel (s : State) (r : Xlated) (c : Nat) (lines : List Line) : State := { s with
  mem := memWrite s.mem (s.cfg.FB_BASE + 4 * r.k) (withPixel (fbWord s r.k) r.p c)
  host := { s.host with prog := lines, pending := [] } }

/-- A set_pixel replaces the field of the pixel's word. -/
theorem fbWord_afterSetPixel_same (s : State) (r : Xlated) (c : Nat) (lines : List Line) :
    fbWord (afterSetPixel s r c lines) r.k = withPixel (fbWord s r.k) r.p c := memRead_memWrite_same _ _ _

/-- A set_pixel leaves every other framebuffer word as it was. -/
theorem fbWord_afterSetPixel_other (s : State) (r : Xlated) (c : Nat) (lines : List Line) {k : Nat} (hk : k ≠ r.k) :
    fbWord (afterSetPixel s r c lines) k = fbWord s k :=
  memRead_memWrite_other s.mem (s.cfg.FB_BASE + 4 * r.k) (s.cfg.FB_BASE + 4 * k) _ (by omega)

/-- A set_pixel is two host operations: a read of the pixel's word and a store of the merged one (R143). -/
theorem runAgents_setPixel {s : State} {x y c : Nat} {ls rest : List Line} (hr : HostReady s (.setPixel x y c :: ls) rest)
    (f : CfgFacts s.cfg) {r : Xlated} (h : xlate s.cfg x y = .ok r) (hlt : c < 8) :
    runAgents [.host, .host] s = some (afterSetPixel s r c (ls ++ rest)) := by
  have ⟨hc, hp, _⟩ := hr
  have hread := (agentStep_hostTerm hr rfl (Laws.RoundTrip.pxSet x y c) rfl).trans
    (exec_pxSet (s := withProg (ls ++ rest) s) hc f h hlt)
  rw [(fields_of_xlate_ok f h).2.2, show (withProg (ls ++ rest) s).host.pending = [] from hp] at hread
  rw [runAgents_cons_of_next hread]
  exact runAgents_singleton (agentStep_fbStore (s := withPending [_] (withProg (ls ++ rest) s)) hc f (k_lt_of_xlate_ok f h) rfl)

/-- Settles O49: the second set replaces the field by the colour it holds, and so writes the word that stands there. -/
theorem setPixelIdempotent : Obligations.SetPixelIdempotent := by
  intro s x y c rest hcfg hr hx hy hlt
  have f := cfgFacts hcfg
  obtain ⟨r, h⟩ := exists_xlate_ok f hx hy
  have hp := p_le_of_xlate_ok f h
  have first := runAgents_setPixel hr f h hlt
  have second := runAgents_setPixel (s := afterSetPixel s r c (.setPixel x y c :: rest)) (ls := []) ⟨hr.1, rfl, rfl⟩ f h hlt
  refine ⟨_, _, _, first, second, ⟨hr.1, rfl, rfl⟩, ?_, h, fun j hj hout => ?_,
    fun b hb => readByte_memWrite_other _ _ _ _ hb⟩
  · rw [afterSetPixel, fbWord_afterSetPixel_same, withPixel_withPixel _ (by omega) hlt]
    exact memWrite_memWrite_same _ _ _ _
  · rw [fbWord_afterSetPixel_same, getLsbD_withPixel_other _ hlt hj hout]

/-- The field a pixel has after a pixel of the raster is set: the colour where they are the same, and else its own. -/
theorem pixelOf_afterSetPixel {s : State} (f : CfgFacts s.cfg) {x y x' y' c : Nat} {r r' : Xlated} (h : xlate s.cfg x y = .ok r)
    (h' : xlate s.cfg x' y' = .ok r') (hlt : c < 8) (lines : List Line) :
    pixelOf (fbWord (afterSetPixel s r c lines) r'.k) r'.p =
      if x' = x ∧ y' = y then BitVec.ofNat 32 c else pixelOf (fbWord s r'.k) r'.p := by
  have hp := p_le_of_xlate_ok f h
  split
  case isTrue heq =>
    obtain ⟨rfl, rfl⟩ := heq
    cases h.symm.trans h'
    rw [fbWord_afterSetPixel_same, pixelOf_withPixel_same _ (by omega) hlt]
  case isFalse hne =>
    by_cases hk : r'.k = r.k
    · have hpp : r'.p ≠ r.p := fun hpp => hne (xlate_injective f h' h hk hpp)
      rw [hk, fbWord_afterSetPixel_same, pixelOf_withPixel_other _ hlt (fields_apart_of_xlate_ok f h h' hpp)]
    · rw [fbWord_afterSetPixel_other _ _ _ _ hk]

/-- Settles O48: the field read is the one the set left there. -/
theorem setPixelThenGetPixel : Obligations.SetPixelThenGetPixel := by
  intro s x y x' y' c n rest hcfg hr hx hy hx' hy' hlt
  have f := cfgFacts hcfg
  obtain ⟨r, h⟩ := exists_xlate_ok f hx hy
  obtain ⟨r', h'⟩ := exists_xlate_ok f hx' hy'
  have hset := runAgents_setPixel hr f h hlt
  have hget := (agentStep_hostTerm (s := afterSetPixel s r c (.getPixel x' y' n :: rest)) (ls := []) ⟨hr.1, rfl, rfl⟩ rfl
    (Laws.RoundTrip.pxGet x' y' n) rfl).trans (exec_pxGet (s := withProg rest (afterSetPixel s r c _)) hr.1 f h' n)
  refine ⟨_, r', runAgents_append_of hset (runAgents_singleton hget), ⟨hr.1, rfl, rfl⟩, h', ?_⟩
  rw [bindResult_host, lookupName_bindName, if_pos rfl]
  exact congrArg some (pixelOf_afterSetPixel f h h' hlt _)

/-! ### The framebuffer filled (R145, R147) -/

/-- The state j stores into a fill_all, with the lines that come after it. -/
def filled (s : State) (c : Nat) (lines : List Line) (j : Nat) : State := { s with
  mem := fillWords s.mem s.cfg.FB_BASE (tilingMask c) j
  host := { s.host with prog := lines, pending := (fillStores s.cfg c).drop j } }

/-- A fill_all run alone writes the framebuffer word by word (R145). -/
theorem runAgents_fillAll {s : State} {c : Nat} {ls rest : List Line} (hr : HostReady s (.fillAll c :: ls) rest) (f : CfgFacts s.cfg)
    (hlt : c < 8) {j : Nat} (hj : j < s.cfg.N) :
    runAgents (List.replicate (j + 1) .host) s = some (filled s c (ls ++ rest) (j + 1)) := by
  have ⟨hc, hp, _⟩ := hr
  induction j with
  | zero =>
    have hfirst := (agentStep_hostTerm hr rfl (Laws.RoundTrip.pxFill c) rfl).trans
      (exec_pxFill (s := withProg (ls ++ rest) s) hc f hlt)
    rw [show (withProg (ls ++ rest) s).host.pending = [] from hp, List.append_nil] at hfirst
    exact runAgents_singleton hfirst
  | succ j ih =>
    rw [runAgents_replicate_succ, ih (by omega), Option.bind_some]
    exact runAgents_singleton (agentStep_fbStore (s := filled s c (ls ++ rest) (j + 1)) hc f hj (drop_fillStores c hj))

/-- Settles O50: the last of the N stores leaves every word the mask. -/
theorem fillAllPaintsEveryPixel : Obligations.FillAllPaintsEveryPixel := by
  intro s c rest hcfg hr hlt
  have f := cfgFacts hcfg
  obtain ⟨n, hn⟩ := Nat.exists_eq_add_of_le' f.n.1
  have hrun := runAgents_fillAll (ls := []) hr f hlt (j := n) (by omega)
  rw [← hn] at hrun
  have hword : ∀ k < s.cfg.N, fbWord (filled s c ([] ++ rest) s.cfg.N) k = tilingMask c := fun k hk => memRead_fillWords _ _ _ hk
  refine ⟨_, hrun, ⟨hr.1, ?_, rfl⟩, fun k hk => ?_, fun b hb => readByte_fillWords_other _ _ _ hb, fun x y m hx hy => ?_⟩
  · simp [filled, fillStores]
  · rw [hword k hk, toNat_tilingMask hlt]
  · obtain ⟨r, h⟩ := exists_xlate_ok f hx hy
    have hcol : pixelOf (tilingMask c) (3 * (x % 10)) = BitVec.ofNat 32 c := pixelOf_tilingMask hlt (Nat.mod_lt _ (by decide))
    have hget := exec_pxGet (s := filled s c ([] ++ rest) s.cfg.N) hr.1 f h m
    rw [hword _ (k_lt_of_xlate_ok f h), (fields_of_xlate_ok f h).2.1, hcol] at hget
    exact ⟨_, hget, rfl, by rw [bindResult_host, lookupName_bindName, if_pos rfl]⟩

end Sys2Proof.Machine
end

section
/-! The register operations (R153 to R175): the word each read returns, and the state or the fault each write leaves. -/

namespace Sys2Proof.Machine

/-! ### A register operation from its register's read or write -/

section
variable {s : State} (hc : Clean s)
include hc

/-- A register's read operation records the fault of its read (R184). -/
theorem faults_readInstr {r : Reg} {f : FaultRec} (h : readReg s r = .error f) : Faults (readInstr r) s f := by
  rw [Faults, exec_readInstr hc.halted_eq, h, returnWord_error, recordFault]

/-- A register's write operation answers the state of its write. -/
theorem exec_writeInstr_of_ok {t : State} {r : Reg} {v : Word} (h : writeReg v s r = .ok t) : exec (writeInstr v r) s = .next t :=
  next_of_commit (exec_writeInstr hc.halted_eq r v) h

/-- A register's write operation records the fault of its write (R184). -/
theorem faults_writeInstr {r : Reg} {v : Word} {f : FaultRec} (h : writeReg v s r = .error f) : Faults (writeInstr v r) s f :=
  faults_of_commit (exec_writeInstr hc.halted_eq r v) h

end

/-! ### The reads (R154 to R163) -/

/-- A bit of a register's value at its place in the word (R83). -/
theorem bitWord_shiftLeft (b : Bool) (j : Nat) : bitWord b <<< j = if b then (1 : Word) <<< j else 0 := by
  cases b <;> simp [bitWord]

/-- Settles O51: each register's read gives the word, the fields put together bit by bit. -/
theorem registerReads : Obligations.RegisterReads := by
  intro s c hc k level bit ctrl
  have hbit : ∀ b j, bitWord b <<< j = bit b j := bitWord_shiftLeft
  have hbit0 : ∀ b, bitWord b = bit b 0 := fun b => by rw [← hbit, BitVec.shiftLeft_zero]
  have returns : ∀ r {v}, readReg s r = .ok v → Returns (readInstr r) s v := fun r _ h => (returns_readInstr hc).2 h
  have hctrl : ctrlWord k.ctrl k.busy = ctrl := by
    rw [ctrlWord, hbit, hbit, hbit, hbit, hbit0 k.ctrl.en]
  have hflags : seqFlagsWord s = bit s.flagB 1 ||| bit s.flagA 0 := by
    rw [seqFlagsWord, hbit, hbit0 s.flagA]
  have hfstat : seqFstatWord s =
      bit (decide (level = 0)) 9 ||| bit (decide (level = s.cfg.F)) 8 ||| BitVec.ofNat 32 level := by
    rw [seqFstatWord, hbit, hbit]
    rfl
  exact ⟨returns .seqCtrl rfl, returns .seqFlags (congrArg Except.ok hflags), returns .seqFstat (congrArg Except.ok hfstat),
    returns (.chReadAddr c) rfl, returns (.chWriteAddr c) rfl, returns (.chTransCount c) rfl,
    returns (.chCtrlTrig c) (congrArg Except.ok hctrl), returns (.chCtrl c) (congrArg Except.ok hctrl),
    returns (.chReadAddrTrig c) rfl, returns (.chTransRemain c) rfl⟩

/-- Settles O52: the read or the write of each of these registers is the fault with the register's offset. -/
theorem accessFaults : Obligations.AccessFaults := fun s _ hc =>
  ⟨faults_readInstr hc (readReg_writeOnly s (Or.inl rfl)), faults_readInstr hc (readReg_writeOnly s (Or.inr rfl)),
    faults_writeInstr hc (r := .seqFstat) rfl, faults_writeInstr hc (r := .chTransRemain .ch0) rfl,
    faults_writeInstr hc (r := .chTransRemain .ch1) rfl⟩

/-! ### The reserved bits (R38) -/

section
variable {o : BitVec 9} {m v : Word} {k : Except FaultRec State}

theorem checkReserved_legal (hv : v &&& m = 0) : checkReserved o m v k = k := if_pos hv

theorem checkReserved_reserved (hv : v &&& m ≠ 0) : checkReserved o m v k = .error (.reserved o v) := if_neg hv

end

/-! ### The writes of the sequencer's registers (R165, R166, R168) -/

/-- A write to SEQ_CTRL with no reserved bit: the restarts its bits select, and then the new enables (R165). -/
theorem writeSeqCtrl_legal {v : Word} (s : State) (hv : v &&& seqCtrlReserved = 0) : writeSeqCtrl v s = .ok { s with
    hgen := if v.getLsbD 4 then initHGen s.cfg else s.hgen
    vgen := if v.getLsbD 5 then initVGen s.cfg else s.vgen
    cgen := if v.getLsbD 6 then initCGen (Config.latchDraw s.draws) else s.cgen
    draws := if v.getLsbD 6 then s.draws + 1 else s.draws
    smEn := v.extractLsb' 0 3 } := by
  rw [writeSeqCtrl, checkReserved_legal hv]
  cases v.getLsbD 4 <;> cases v.getLsbD 5 <;> cases v.getLsbD 6 <;> rfl

/-- Settles O53: the write's two outcomes; the draw is the next one of the latch. -/
theorem writeSeqCtrl_operation : Obligations.WriteSeqCtrl := fun s _ hc =>
  ⟨fun hv => faults_writeInstr hc (r := .seqCtrl) (checkReserved_reserved hv),
    fun hv => ⟨Config.latchDraw s.draws, _, exec_writeInstr_of_ok hc (r := .seqCtrl) (writeSeqCtrl_legal s hv)⟩⟩

/-- A write to SEQ_FLAGS with no reserved bit clears the flags its bits select (R166). -/
theorem writeSeqFlags_legal {v : Word} (s : State) (hv : v &&& seqFlagsReserved = 0) : writeSeqFlags v s = .ok { s with
    flagA := if v.getLsbD 0 then false else s.flagA
    flagB := if v.getLsbD 1 then false else s.flagB } := by
  rw [writeSeqFlags, checkReserved_legal hv, clearFlags]
  cases v.getLsbD 0 <;> cases v.getLsbD 1 <;> simp

/-- Settles O54: the two outcomes of the flags' write, and the two of a push. -/
theorem writeFlagsAndFifo : Obligations.WriteFlagsAndFifo := fun s v hc =>
  ⟨fun hv => faults_writeInstr hc (r := .seqFlags) (checkReserved_reserved hv),
    fun hv => exec_writeInstr_of_ok hc (r := .seqFlags) (writeSeqFlags_legal s hv),
    fun hroom => exec_writeInstr_of_ok hc (r := .cgenTxf) (pushFifo_of_room hroom v),
    fun hfull => faults_writeInstr hc (r := .cgenTxf) (pushFifo_full hfull v)⟩

/-! ### The writes of a channel's registers (R169 to R174) -/

/-- The offset given channel by channel is the channel register's. -/
theorem eq_chanOffset {c : Chan} {o o₀ o₁ : BitVec 9} (h₀ : c = .ch0 → o = o₀) (h₁ : c = .ch1 → o = o₁)
    (h : o₁ = o₀ ||| 0x040) : o = chanOffset o₀ c := by
  cases c
  · exact h₀ rfl
  · exact (h₁ rfl).trans h

/-- Settles O55: the register write of each is the update of its field; CTRL's is checked for reserved bits first. -/
theorem writeChannelRegisters : Obligations.WriteChannelRegisters := by
  intro s c v hc
  refine ⟨exec_writeInstr_of_ok hc (r := .chReadAddr c) rfl, exec_writeInstr_of_ok hc (r := .chWriteAddr c) rfl,
    exec_writeInstr_of_ok hc (r := .chTransCount c) rfl, fun hv o h₀ h₁ => ?_,
    fun hv => exec_writeInstr_of_ok hc (r := .chCtrl c) (checkReserved_legal hv)⟩
  rw [eq_chanOffset h₀ h₁ rfl]
  exact faults_writeInstr hc (r := .chCtrl c) (checkReserved_reserved hv)

/-- A write to CHc_CTRL_TRIG with no reserved bit stores the fields and triggers: with EN written 0 the trigger is ignored (R121,
R173). -/
theorem writeChCtrlTrig_legal {v : Word} (c : Chan) (s : State) (hv : v &&& ctrlReserved = 0) :
    writeChCtrlTrig c v s = trigger c (storeCtrl c v s) := by
  rw [writeChCtrlTrig, checkReserved_legal hv]
  split
  case isTrue => rfl
  case isFalse hen => rw [trigger_disabled (by simpa [storeCtrl, ctrlOfWord] using hen)]

/-- Settles O57: both writes store to their channel and end with the trigger. -/
theorem triggerWrites : Obligations.TriggerWrites := by
  intro s c v hc outcome
  have ends_with_trigger : ∀ {r k}, writeReg v s r = trigger c (setChan c k s) → outcome (writeInstr v r) k := by
    intro r k h
    have hex : exec (writeInstr v r) s = commit s (trigger c (setChan c k s)) :=
      (exec_writeInstr hc.halted_eq r v).trans (congrArg _ h)
    simpa only [chan_setChan_same, setChan_setChan] using trigger_cases_of_commit hex
  refine ⟨ends_with_trigger (r := .chReadAddrTrig c) rfl,
    fun hv => ends_with_trigger (r := .chCtrlTrig c) (writeChCtrlTrig_legal c s hv), fun hv o h₀ h₁ => ?_⟩
  rw [eq_chanOffset h₀ h₁ rfl]
  exact faults_writeInstr hc (r := .chCtrlTrig c) (checkReserved_reserved hv)

end Sys2Proof.Machine
end

section
/-! The host's bus accesses (R150, R151), and the codes and accesses a host line may not carry (R59, R86, R152, R190). -/

namespace Sys2Proof.Machine

/-! ### HOST.LDW and HOST.STW (R150, R151) -/

section
variable {s : State} (hc : Clean s)
include hc

/-- A load of another width than the word is refused (R63). -/
theorem refuses_hostLdw {w : Nat} (hw : w ≠ 4) (a : Word) (n : Name) : Refuses (.hostLdw a w n) s .width := by
  simp [Refuses, exec, execHostLdw, hc.halted_eq, hw, refuse, recordRefusal]

/-- A store of another width than the word is refused (R63). -/
theorem refuses_hostStw {w : Nat} (hw : w ≠ 4) (a v : Word) : Refuses (.hostStw a v w) s .width := by
  simp [Refuses, exec, execHostStw, hc.halted_eq, hw, refuse, recordRefusal]

/-- A word load binds the NAME to the word its bus read gives (R150). -/
theorem exec_hostLdw_of_busRead {a v : Word} (h : busRead s a = .ok v) (n : Name) :
    exec (.hostLdw a 4 n) s = .next (bindResult n v s) := by
  simp [exec, execHostLdw, hc.halted_eq, h]

/-- A word store ends as its bus write does (R151). -/
theorem exec_hostStw_word (a v : Word) : exec (.hostStw a v 4) s = commit s (busWrite s a v) := by
  simp [exec, execHostStw, hc.halted_eq]

end

/-- Settles O27: a load of either kind of address is a bus read, whose word the NAME is bound to. -/
theorem hostLoad : Obligations.HostLoad := by
  refine ⟨fun t => (termCodes.2 t).1, fun s a n hc => ?_⟩
  have load : ∀ {v}, busRead s a = .ok v → ∃ t, exec (.hostLdw a 4 n) s = .next t ∧
      t = { s with host := { s.host with names := t.host.names, ret := .word v } } ∧
      ∀ m, lookupName t.host.names m = if m = n then some v else lookupName s.host.names m := fun h =>
    ⟨_, exec_hostLdw_of_busRead hc h n, rfl, fun m => lookupName_bindName _ n m _⟩
  exact ⟨fun w hw => refuses_hostLdw hc hw a n, fun ha => load (busRead_of_isMemAddr ha),
    fun r v ha hr => load ((busRead_of_isRegAddr ha).trans ((returns_readInstr hc).1 hr))⟩

/-- The bytes of a word just written, byte 0 at the lowest address (R61). -/
theorem readByte_memWrite_same (m : List Host.Cell) (a : Nat) (v : Word) {k : Nat} (hk : k < 4) :
    readByte (memWrite m a v) (a + k) = byteOf v k := by
  unfold memWrite
  interval_cases k
  · rw [readByte_memSet_other _ _ _ _ (by omega), readByte_memSet_other _ _ _ _ (by omega),
      readByte_memSet_other _ _ _ _ (by omega), Nat.add_zero, readByte_memSet_same]
  · rw [readByte_memSet_other _ _ _ _ (by omega), readByte_memSet_other _ _ _ _ (by omega), readByte_memSet_same]
  · rw [readByte_memSet_other _ _ _ _ (by omega), readByte_memSet_same]
  · rw [readByte_memSet_same]

/-- Settles O28: a store of either kind of address is a bus write, to the memory word or the register there. -/
theorem hostStore : Obligations.HostStore := by
  refine ⟨fun t => (termCodes.2 t).2.1, fun s a v hc =>
    ⟨fun w hw => refuses_hostStw hc hw a v, fun ha => ?_, fun r ha => ?_⟩⟩
  · exact ⟨_, next_of_commit (exec_hostStw_word hc a v) (busWrite_of_isMemAddr ha), rfl, memRead_memWrite_same _ _ _,
      fun k hk => readByte_memWrite_same _ _ _ hk, fun b hb => readByte_memWrite_other _ _ _ _ hb⟩
  · rw [exec_hostStw_word hc, busWrite_of_isRegAddr ha, exec_writeInstr hc.halted_eq]

/-! ### What a host line may not carry (R59, R86, R152, R190) -/

/-- The nine codes a host program may issue (R152). -/
def hostCodes : List (BitVec 8) := [0x00, 0x01, 0xA0, 0xA1, 0xA2, 0xA3, 0xA4, 0xC0, 0xC1]

/-- An operation a host program may issue has one of the nine codes. -/
theorem op_mem_hostCodes {i : Instr} {u : Term} (hi : i.hostIssuable = true) (he : encode i = .term u) : u.op ∈ hostCodes := by
  cases i <;> cases hi <;> cases he <;> simp [hostCodes]

/-- A term with any other code is refused, whether the code is reserved or another agent's (R86, R152). -/
theorem issueTerm_refused {t : Term} (h : t.op ∉ hostCodes) (s : State) : issueTerm t s = .refuse .opcode s := by
  unfold issueTerm
  split
  case h_1 i hd =>
    obtain ⟨u, he, hu⟩ := encode_of_decode_term hd
    rw [if_neg fun hi => h (hu ▸ op_mem_hostCodes hi he)]
  case h_2 => rfl

/-- An access at an offset that is no multiple of 4 faults with its bus address (R62). -/
theorem issueAccess_misaligned {b : BusAccess} (h : b.offset.toNat % 4 ≠ 0) (s : State) :
    issueAccess b s = .fault (.misaligned (accessAddr s.cfg b)) s := if_pos h

/-- An access at an aligned offset at which no register lies faults with its bus address (R37, R190). -/
theorem issueAccess_unmapped {b : BusAccess} (h : b.offset.toNat % 4 = 0) (hr : ∀ r, regOffset r ≠ b.offset) (s : State) :
    issueAccess b s = .fault (.unmapped (accessAddr s.cfg b)) s := by
  simp [issueAccess, h, decode_access_unmapped (regAt_eq_none hr)]

/-- Settles O7: the step performs what the line issues, a refusal or a fault. -/
theorem stepRejectsHostCode : Obligations.StepRejectsHostCode := by
  intro s sch hc hch hp after
  have records : ∀ {l rest x}, s.host.prog = l :: rest → issueLine l (after rest) = x → step s = perform x :=
    fun hl hx => (step_hostLine hc hch hp hl).trans (congrArg perform hx)
  refine ⟨fun t rest hl ht => records hl (issueTerm_refused ht (after rest)), fun b rest hl =>
    ⟨fun h4 => ?_, fun h4 hr => ?_⟩⟩
  · exact records hl (issueAccess_misaligned h4 (after rest))
  · exact records hl (issueAccess_unmapped h4 hr (after rest))

end Sys2Proof.Machine
end

section
/-! The lifecycle (R177 to R180): the first host operation of START and of STOP, and the runs of the host that make all of them. -/

namespace Sys2Proof.Machine

/-! ### The first host operation of START and STOP (R177, R178, R180) -/

/-- A block is stopped exactly where no unit is enabled and no channel is busy (R177). -/
theorem stopped_iff {s : State} : stopped s = true ↔ s.smEn = 0 ∧ s.ch0.busy = false ∧ s.ch1.busy = false := by
  simp [stopped, and_assoc]

/-- A channel after an abort: EN, BUSY and REMAIN 0, and every other field as before (R126). -/
def abortedChannel (k : Channel) : Channel := { k with ctrl := { k.ctrl with en := false }, busy := false, remain := 0 }

section
variable {s : State} (hc : Clean s)
include hc

/-- START is refused unless the block is stopped (R177). -/
theorem refuses_sysStart (h : stopped s = false) : Refuses .sysStart s .state := by
  simp [Refuses, exec, execSysStart, hc.halted_eq, h, refuse, recordRefusal]

/-- START of a stopped block stores the base pointer and leaves the other eleven stores to come (R178). -/
theorem exec_sysStart (f : CfgFacts s.cfg) (h : stopped s = true) : exec .sysStart s = .next { s with
    mem := memWrite s.mem s.cfg.BASEPTR_ADDR (BitVec.ofNat 32 s.cfg.FB_BASE)
    host := { s.host with pending := (startStores s.cfg).tail ++ s.host.pending } } := by
  have hissue : exec .sysStart s = issueStores (startStores s.cfg) s := by simp [exec, execSysStart, hc.halted_eq, h]
  have hw := busWrite_basePtr (s := withPending ((startStores s.cfg).tail ++ s.host.pending) s) rfl f
    (BitVec.ofNat 32 s.cfg.FB_BASE)
  exact hissue.trans (congrArg (commit s) hw)

/-- STOP aborts both channels and leaves the disabling store to come (R180). -/
theorem exec_sysStop (f : CfgFacts s.cfg) : exec .sysStop s = .next { s with
    ch0 := abortedChannel s.ch0
    ch1 := abortedChannel s.ch1
    host := { s.host with pending := regStore s.cfg .seqCtrl 0x0 :: s.host.pending } } := by
  have hissue : exec .sysStop s = issueStores (stopStores s.cfg) s := by simp [exec, execSysStop, hc.halted_eq]
  have hw := (busWrite_regAddr (s := withPending ((stopStores s.cfg).tail ++ s.host.pending) s) f rfl .chanAbort 0x3).trans
    (writeChanAbort_legal _ (by decide))
  exact hissue.trans (congrArg (commit s) hw)

end

/-- Settles O58: the codes by the OP8 table, the refusal by the stopped test, and the stores' addresses by the registers' offsets. -/
theorem lifecycleFirstWrite : Obligations.LifecycleFirstWrite := by
  refine ⟨termCodes.1 _ _ (by simp), termCodes.1 _ _ (by simp), ?_⟩
  intro s hc hcfg p reg off
  have f := cfgFacts hcfg
  refine ⟨fun h => refuses_sysStart hc ?_, fun hu h0 h1 => exec_sysStart hc f (stopped_iff.2 ⟨hu, h0, h1⟩),
    exec_sysStop hc f⟩
  rw [← Bool.not_eq_true, stopped_iff]
  rintro ⟨hu, h0, h1⟩
  simp [hu, h0, h1] at h

/-! ### Register stores of the host, one after the other (R90) -/

/-- The register stores to come performed in their order, each taken off the host's list first. -/
def performRegStores : List (Reg × Word) → State → Except FaultRec State
  | [], s => .ok s
  | w :: ws, s => match writeReg w.2 (withPending (ws.map fun w => regStore s.cfg w.1 w.2) s) w.1 with
    | .ok t => performRegStores ws t
    | .error f => .error f

/-- A register store to come is HOST's next operation, and it is the register's write (R58, R90). -/
theorem agentStep_regStore {s t : State} (hc : Clean s) (f : CfgFacts s.cfg) {r : Reg} {v : Word} {rest : List Store}
    (hp : s.host.pending = regStore s.cfg r v :: rest) (h : writeReg v (withPending rest s) r = .ok t) :
    agentStep .host s = .next t := by
  have hissue : agentIssue .host s = some (.run (.hostStw (regAddr s.cfg r) v 4) (withPending rest s)) := by
    simp [agentIssue, hostIssue, hp, regStore, withPending]
  rw [agentStep_of_issue hc.1 hc.2 hissue, perform]
  exact next_of_commit (exec_hostStw_word (s := withPending rest s) hc _ v)
    ((busWrite_regAddr (s := withPending rest s) f rfl r v).trans h)

/-- The host run alone performs the register stores to come. -/
theorem runAgents_regStores {s t : State} {ws : List (Reg × Word)} (hc : Clean s) (f : CfgFacts s.cfg)
    (hp : s.host.pending = ws.map fun w => regStore s.cfg w.1 w.2) (h : performRegStores ws s = .ok t) :
    runAgents (List.replicate ws.length .host) s = some t := by
  induction ws generalizing s with
  | nil => cases h; rfl
  | cons w ws ih =>
    rw [performRegStores] at h
    split at h
    case h_2 => cases h
    case h_1 u hw =>
      have hu := sameFrame_writeReg hw
      rw [List.length_cons, List.replicate_succ, runAgents_cons_of_next (agentStep_regStore hc f hp hw)]
      refine ih ⟨hu.faultRec.trans hc.1, hu.refusedRec.trans hc.2⟩ (hu.cfg ▸ f) ?_ h
      rw [hu.host, hu.cfg]
      rfl

/-! ### START (R178, R179) -/

/-- The last two register writes of START: the trigger of the control channel and the enables (R178). -/
def armWrites : List (Reg × Word) := [(.chCtrlTrig .ch1, controlCtrl), (.seqCtrl, 0x7)]

/-- The register writes of START, after the store of the base pointer (R178). -/
def startWrites (p : Params) : List (Reg × Word) := [
  (.chReadAddr .ch0, BitVec.ofNat 32 p.FB_BASE), (.chWriteAddr .ch0, regAddr p .cgenTxf),
  (.chTransCount .ch0, BitVec.ofNat 32 p.N), (.chCtrl .ch0, dataCtrl),
  (.chReadAddr .ch1, BitVec.ofNat 32 p.BASEPTR_ADDR), (.chWriteAddr .ch1, regAddr p (.chReadAddrTrig .ch0)),
  (.chTransCount .ch1, 1), (.seqFlags, 0x3), (.seqCtrl, 0x70)] ++ armWrites

theorem startStores_tail (p : Params) : (startStores p).tail = (startWrites p).map fun w => regStore p w.1 w.2 := rfl

/-- The block before START's last two writes: flags clear, units restarted and disabled, channels configured but for the control
channel's control word (R128, R129). -/
def restarted (s : State) : State := { s with
  hgen := initHGen s.cfg
  vgen := initVGen s.cfg
  cgen := initCGen (Config.latchDraw s.draws)
  draws := s.draws + 1
  flagA := false
  flagB := false
  smEn := 0
  ch0 := { s.ch0 with
    readAddr := BitVec.ofNat 32 s.cfg.FB_BASE
    writeAddr := regAddr s.cfg .cgenTxf
    transCount := BitVec.ofNat 32 s.cfg.N
    ctrl := ctrlOfWord dataCtrl }
  ch1 := { s.ch1 with
    readAddr := BitVec.ofNat 32 s.cfg.BASEPTR_ADDR
    writeAddr := regAddr s.cfg (.chReadAddrTrig .ch0)
    transCount := 1 }
  host := { s.host with pending := armWrites.map fun w => regStore s.cfg w.1 w.2 } }

/-- The block after START: the control channel armed and the units enabled. -/
def started (s : State) : State := { restarted s with
  ch1 := { (restarted s).ch1 with ctrl := ctrlOfWord controlCtrl, remain := 1, busy := true }
  smEn := 0b111
  host := { s.host with pending := [] } }

/-- The nine writes of START that configure the channels and restart the units (R178). -/
theorem performRegStores_startWrites (s : State) :
    performRegStores (startWrites s.cfg) s = performRegStores armWrites (restarted s) := by
  have hctrl : ∀ u, writeChCtrl .ch0 dataCtrl u = .ok (storeCtrl .ch0 dataCtrl u) := fun u => checkReserved_legal (by decide)
  have hflags : ∀ u, writeSeqFlags 0x3#32 u = .ok { u with flagA := false, flagB := false } := fun u =>
    writeSeqFlags_legal u (by decide)
  have hunits : ∀ u, writeSeqCtrl 0x70#32 u = .ok { u with
      hgen := initHGen u.cfg, vgen := initVGen u.cfg, cgen := initCGen (Config.latchDraw u.draws)
      draws := u.draws + 1, smEn := 0 } := fun u => writeSeqCtrl_legal u (by decide)
  simp [startWrites, performRegStores, writeReg, writeChReadAddr, writeChWriteAddr, writeChTransCount, hctrl, hflags, hunits,
    storeCtrl, setChan, withPending, restarted]

/-- The write of the control channel's control word to its trigger register starts the run of the one transfer (R121, R129). -/
theorem writeReg_controlCtrl {s : State} (hra : s.ch1.readAddr = BitVec.ofNat 32 s.cfg.BASEPTR_ADDR)
    (hwa : s.ch1.writeAddr = regAddr s.cfg (.chReadAddrTrig .ch0)) (hn : s.ch1.transCount = 1) (hb : s.ch1.busy = false) :
    writeReg controlCtrl s (.chCtrlTrig .ch1) =
      .ok { s with ch1 := { s.ch1 with ctrl := ctrlOfWord controlCtrl, remain := 1, busy := true } } :=
  (writeChCtrlTrig_legal .ch1 s (by decide)).trans (trigger_controlConfigured ⟨hra, hwa, hn, rfl⟩ hb)

/-- The two last writes of START arm the control channel and enable the units (R178). -/
theorem performRegStores_armWrites {s : State} (hb : s.ch1.busy = false) :
    performRegStores armWrites (restarted s) = .ok (started s) := by
  simp only [performRegStores, armWrites, writeReg_controlCtrl (s := withPending _ (restarted s)) rfl rfl rfl hb]
  rfl

/-- START leaves the loop in Arming (R130, R179). -/
theorem arming_started {s : State} (h0 : ChannelOk s.ch0) (hb : s.ch0.busy = false) : Arming (started s) := by
  have hremain : s.ch0.remain = 0 := by simpa [ChannelOk, hb] using h0
  exact ⟨rfl, rfl, hb, hremain⟩

/-- START establishes the loop invariant (R130, R179). -/
theorem loopInv_started {s : State} (hcfg : s.cfg.cfgOk = true) (hbase : BasePtrOk s) (ha : Arming (started s)) :
    LoopInv (started s) where
  cfg := hcfg
  fifo := Nat.zero_le _
  data := ⟨rfl, rfl, rfl⟩
  control := ⟨rfl, rfl, rfl, rfl⟩
  base := hbase
  phase := Or.inl ha

/-- The state after the first host operation of START, with the lines that come after it. -/
def startIssued (s : State) (lines : List Line) : State := { s with
  mem := memWrite s.mem s.cfg.BASEPTR_ADDR (BitVec.ofNat 32 s.cfg.FB_BASE)
  host := { s.host with prog := lines, pending := (startStores s.cfg).tail } }

/-- START run alone from a stopped block is twelve host operations (R178). -/
theorem runAgents_start {s : State} {ls rest : List Line} (hr : HostReady s (.start :: ls) rest) (f : CfgFacts s.cfg)
    (h : stopped s = true) :
    runAgents (List.replicate 12 .host) s = some (started (startIssued s (ls ++ rest))) := by
  have ⟨hc, hp, _⟩ := hr
  have hfirst := (agentStep_hostTerm hr rfl Laws.RoundTrip.sysStart rfl).trans
    (exec_sysStart (s := withProg (ls ++ rest) s) hc f h)
  rw [show (withProg (ls ++ rest) s).host.pending = [] from hp, List.append_nil] at hfirst
  rw [List.replicate_succ, runAgents_cons_of_next hfirst]
  exact runAgents_regStores (s := startIssued s (ls ++ rest)) (ws := startWrites s.cfg) hc f (startStores_tail _)
    ((performRegStores_startWrites _).trans (performRegStores_armWrites (stopped_iff.1 h).2.2))

/-- Settles O59: the state the twelve operations leave. -/
theorem startArmsTheLoop : Obligations.StartArmsTheLoop := by
  intro s rest hinv hr hu h0 h1
  have ha : Arming (started (startIssued s ([] ++ rest))) := arming_started hinv.ch0 h0
  exact ⟨_, runAgents_start hr (cfgFacts hinv.cfg) (stopped_iff.2 ⟨hu, h0, h1⟩), ⟨hr.1, rfl, rfl⟩, rfl, rfl, rfl, rfl, rfl, rfl,
    rfl, rfl, ha, loopInv_started hinv.cfg (memRead_memWrite_same _ _ _) ha, fun b hb => readByte_memWrite_other _ _ _ _ hb⟩

/-! ### STOP (R180, R215) -/

/-- The block after STOP, with the lines that come after it. -/
def afterStop (s : State) (lines : List Line) : State := { s with
  ch0 := abortedChannel s.ch0
  ch1 := abortedChannel s.ch1
  smEn := 0
  host := { s.host with prog := lines } }

/-- STOP run alone is two host operations (R180). -/
theorem runAgents_stop {s : State} {ls rest : List Line} (hr : HostReady s (.stop :: ls) rest) (f : CfgFacts s.cfg) :
    runAgents [.host, .host] s = some (afterStop s (ls ++ rest)) := by
  have ⟨hc, hp, _⟩ := hr
  have habort := (agentStep_hostTerm hr rfl Laws.RoundTrip.sysStop rfl).trans (exec_sysStop (s := withProg (ls ++ rest) s) hc f)
  rw [show (withProg (ls ++ rest) s).host.pending = [] from hp] at habort
  rw [runAgents_cons_of_next habort]
  refine runAgents_singleton (agentStep_regStore (r := .seqCtrl) (v := 0) hc f rfl ?_)
  rw [afterStop, ← hp]
  exact writeSeqCtrl_legal _ (by decide)

/-- Settles O60: the state the two operations leave; the configured channels' control words then lack EN and BUSY. -/
theorem stopFreezesTheBlock : Obligations.StopFreezesTheBlock := by
  intro s rest hcfg hr off
  have hc : Clean (afterStop s ([] ++ rest)) := hr.1
  refine ⟨_, runAgents_stop hr (cfgFacts hcfg), rfl, fun h0 h1 => ⟨?_, ?_⟩⟩
  · refine (returns_readInstr hc (r := .chCtrl .ch0)).2 ?_
    simp only [readReg, readChCtrl, chan_ch0, afterStop, abortedChannel, h0]
    decide
  · refine (returns_readInstr hc (r := .chCtrl .ch1)).2 ?_
    simp only [readReg, readChCtrl, chan_ch1, afterStop, abortedChannel, h1]
    decide

end Sys2Proof.Machine
end

section
/-! The records of faults and refusals (R184 to R186): an operation that makes one changes nothing else, and a state that has one runs no
operation. -/

namespace Sys2Proof.Machine

/-! ### What records, and what keeps a state clean (R184, R185) -/

/-- What keeps the frame of a clean state leaves it clean. -/
theorem SameFrame.clean {s t : State} (h : SameFrame s t) (hc : Clean s) : Clean t :=
  ⟨h.faultRec.trans hc.1, h.refusedRec.trans hc.2⟩

/-- A transfer that does not fault records nothing. -/
theorem xfer_clean {c : Chan} {s t : State} (h : xfer c s = .ok t) (hc : Clean s) : Clean t := by
  obtain ⟨_, _, -, hw, hx⟩ := xfer_ok h
  exact (sameFrame_finishXfer hx).clean (busWrite_clean hw hc)

/-- An operation leaves a clean state clean, or makes one record and changes nothing else. -/
theorem Effect.clean_or_records {i : Instr} {s t : State} (e : Effect i s t) (hc : Clean s) :
    Clean t ∨ (∃ f, t = recordFault f s) ∨ ∃ r, t = recordRefusal r s := by
  cases e with
  | fault _ _ f => exact Or.inr (Or.inl ⟨f, rfl⟩)
  | refusal _ _ r => exact Or.inr (Or.inr ⟨r, rfl⟩)
  | hAp | hSp => exact Or.inl (clean_hgenCycle.2 hc)
  | hBp => exact Or.inl (clean_hgenCycle.2 (by split <;> exact hc))
  | vVis | vFp | vSplHigh | vSplBack | vSph | vBp => exact Or.inl (clean_vgenEvent.2 hc)
  | dmaXfer _ _ _ _ hx => exact Or.inl (xfer_clean hx hc)
  | dmaTrigger _ _ _ hx => exact Or.inl ((sameFrame_trigger hx).clean hc)
  | dmaAbort c => exact Or.inl ((sameFrame_abort c s).clean hc)
  | pxFill _ _ _ _ _ _ hb | sysStart _ _ _ hb | sysStop _ _ hb | hostStw _ _ _ _ hb => exact Or.inl (busWrite_clean hb hc)
  | writeReg _ _ _ _ hw => exact Or.inl ((sameFrame_writeReg hw).clean hc)
  | vHold | cWait | cTake | cOut | cStall | cDwell | cBlank | pxXlate | pxMask | pxSet | pxGet | pxFillNone | hostLdw | readReg =>
    exact Or.inl hc

/-- Settles O30: the operation ran from a clean state, so a record after it is the one it made, and then it changed nothing else. -/
theorem faultLeavesNoOtherTrace : Obligations.FaultLeavesNoOtherTrace := by
  intro i s t h
  have hc := exec_next_clean h
  obtain ht | ⟨f, rfl⟩ | ⟨r, rfl⟩ := (exec_effect h).2.clean_or_records hc
  · exact ⟨fun _ hg => absurd (ht.1.symm.trans hg) nofun, fun _ hq => absurd (ht.2.symm.trans hq) nofun⟩
  · exact ⟨fun _ hg => (by cases hg; rfl), fun _ hq => absurd (hc.2.symm.trans hq) nofun⟩
  · exact ⟨fun _ hg => absurd (hc.1.symm.trans hg) nofun, fun _ hq => (by cases hq; rfl)⟩

/-! ### What a record stops (R186) -/

/-- An enabled agent's state is clean. -/
theorem agentEnabled_clean {a : Agent} {s : State} (h : agentEnabled a s = true) : Clean s :=
  (halted_eq_false s).1 (agentIssue_of_enabled h).1

/-- A step that answers a next state begins in a clean one. -/
theorem step_next_clean {s t : State} (h : step s = .next t) : Clean s := by
  obtain ⟨hf, hr, -⟩ := step_next h
  exact ⟨hf, hr⟩

/-- With a fault recorded, a step answers it, whatever refusal stands beside it. -/
theorem step_of_faultRec {s : State} {f : FaultRec} (hf : s.faultRec = some f) : step s = .fault (.halted f) := by
  simp [step, hf]

/-- Settles O8: an enabled agent, a performed operation and a step each need a state with no record; with one, a step answers it. -/
theorem recordStopsMachine : Obligations.RecordStopsMachine := fun _ hs =>
  ⟨fun _ => Bool.eq_false_iff.2 fun h => hs (agentEnabled_clean h), fun _ _ h => hs (exec_next_clean h),
    fun _ h => hs (step_next_clean h), fun _ => step_of_faultRec, fun _ => step_of_refusedRec⟩

end Sys2Proof.Machine
end
